-- ==== Sys2Proof/Word.lean ====
section
/-! DEFINITION. The word types of the block: every value is an unsigned number of a stated width (R9). -/

namespace Sys2Proof

/-- One byte: a payload byte, the command word, `cnt`, `pos` (R8, R28). -/
abbrev Byte := BitVec 8

/-- The 16-bit unsigned raw and physical value ports (R8, R28). -/
abbrev Word16 := BitVec 16

/-- A PDO or RDO word (R8, R51). -/
abbrev Word32 := BitVec 32

end Sys2Proof
end

