-- ==== Sys2Proof/Config.lean ====
section
/-! DEFINITION. The three build-time parameters of the block (R7, R26) and its fixed sizes (R8).
A configuration is a value the machine carries and no step writes (assumption log 1), so every statement about
every state is a statement about every build. -/

namespace Sys2Proof

/-- `WORD_ORDER`: how a 32-bit word lies in four payload bytes (R7, R51). -/
inductive WordOrder where
  | le
  | be
  deriving DecidableEq, Repr

/-- `PPS_TAG`: the 2-bit discriminator value that selects the PPS layout; 0b00 is not one of its values (R7, R76). -/
inductive PpsTag where
  | tag01
  | tag10
  | tag11
  deriving DecidableEq, Repr

/-- `FIXED_RDO_MAX`: what RDO_ENC writes into the Fixed request's max-current field (R7, R172). -/
inductive FixedRdoMax where
  | requested
  | pdoMax
  deriving DecidableEq, Repr

/-- The configuration of one build (R7, R26). -/
structure Config where
  wordOrder   : WordOrder
  ppsTag      : PpsTag
  fixedRdoMax : FixedRdoMax
  deriving DecidableEq, Repr

/-- The defaults of R7's table. -/
def Config.defaults : Config := { wordOrder := .le, ppsTag := .tag01, fixedRdoMax := .requested }

end Sys2Proof
end

