-- ==== Sys2Proof/Syntax.lean ====
section
/-! DEFINITION. The commands of the block: one constructor of `Instr` for each of the 37 legal command words of R71 to
R73. The operands are no part of a command: they arrive on the operand ports (R28, R70), so the constructors carry none. -/

namespace Sys2Proof

/-- The twelve entries of the unit LUT, in index order (R72, R110). -/
inductive LutIndex where
  | statV
  | statI
  | statT
  | pdoFixI
  | pdoFixV
  | pdoPpsI
  | pdoPpsVmin
  | pdoPpsVmax
  | rdoFixImax
  | rdoFixIop
  | rdoPpsIop
  | rdoPpsV
  deriving DecidableEq, Repr

/-- The two layouts of a PDO or RDO, as SEL names them (R72): 0 = FIXED, 1 = PPS. -/
inductive Variant where
  | fixed
  | pps
  deriving DecidableEq, Repr

/-- One constructor per row of the opcode map (R71, R73). -/
inductive Instr where
  | unitDecStatV
  | unitDecStatI
  | unitDecStatT
  | unitDecPdoFixI
  | unitDecPdoFixV
  | unitDecPdoPpsI
  | unitDecPdoPpsVmin
  | unitDecPdoPpsVmax
  | unitDecRdoFixImax
  | unitDecRdoFixIop
  | unitDecRdoPpsIop
  | unitDecRdoPpsV
  | unitEncStatV
  | unitEncStatI
  | unitEncStatT
  | unitEncPdoFixI
  | unitEncPdoFixV
  | unitEncPdoPpsI
  | unitEncPdoPpsVmin
  | unitEncPdoPpsVmax
  | unitEncRdoFixImax
  | unitEncRdoFixIop
  | unitEncRdoPpsIop
  | unitEncRdoPpsV
  | statusDec
  | eventDec
  | eventEnc
  | pdoDec
  | pdoListDec
  | pdoPackFixed
  | pdoPackPps
  | rdoEnc
  | rdoDecFixed
  | rdoDecPps
  | rdoPackFixed
  | rdoPackPps
  | addrLookup
  deriving DecidableEq, Repr

/-- The three pseudo-instructions of R86. -/
inductive PseudoInstr where
  | voltDec
  | currDec
  | tempDec
  deriving DecidableEq, Repr

end Sys2Proof
end

