-- ==== Sys2Proof/WellFormed.lean ====
section
/-! DEFINITION. Which command words are legal: the two fields of a command (R70) against the legal SEL sets (R71, R72). -/

namespace Sys2Proof

/-- The two fields of the command word (R70). -/
structure Cmd where
  op  : BitVec 4
  sel : BitVec 4
  deriving DecidableEq, Repr

/-- The command word with these fields: OP in bits 3:0, SEL in bits 7:4 (R70). -/
def Cmd.toByte (c : Cmd) : Byte := c.sel ++ c.op

/-- How many SEL values, counted from 0, an operation takes; none for the reserved OP values (R71, R72). -/
def legalSels (op : BitVec 4) : Nat :=
  match op.toNat with
  | 0 | 1 => 12
  | 7 | 9 | 10 => 2
  | 2 | 3 | 4 | 5 | 6 | 8 | 11 => 1
  | _ => 0

/-- OP is not one of the reserved values 0xC to 0xF (R84). -/
def Cmd.opDefined (c : Cmd) : Bool := legalSels c.op != 0

/-- SEL is in the operation's legal set (R72, R84). -/
def Cmd.selLegal (c : Cmd) : Bool := decide (c.sel.toNat < legalSels c.op)

/-- A command is legal (R73, R84). -/
def Cmd.wellFormed (c : Cmd) : Bool := c.opDefined && c.selLegal

/-- The OP and SEL of each command (R71, R72). -/
def Instr.cmd : Instr → Cmd
  | .unitDecStatV => ⟨0x0, 0⟩
  | .unitDecStatI => ⟨0x0, 1⟩
  | .unitDecStatT => ⟨0x0, 2⟩
  | .unitDecPdoFixI => ⟨0x0, 3⟩
  | .unitDecPdoFixV => ⟨0x0, 4⟩
  | .unitDecPdoPpsI => ⟨0x0, 5⟩
  | .unitDecPdoPpsVmin => ⟨0x0, 6⟩
  | .unitDecPdoPpsVmax => ⟨0x0, 7⟩
  | .unitDecRdoFixImax => ⟨0x0, 8⟩
  | .unitDecRdoFixIop => ⟨0x0, 9⟩
  | .unitDecRdoPpsIop => ⟨0x0, 10⟩
  | .unitDecRdoPpsV => ⟨0x0, 11⟩
  | .unitEncStatV => ⟨0x1, 0⟩
  | .unitEncStatI => ⟨0x1, 1⟩
  | .unitEncStatT => ⟨0x1, 2⟩
  | .unitEncPdoFixI => ⟨0x1, 3⟩
  | .unitEncPdoFixV => ⟨0x1, 4⟩
  | .unitEncPdoPpsI => ⟨0x1, 5⟩
  | .unitEncPdoPpsVmin => ⟨0x1, 6⟩
  | .unitEncPdoPpsVmax => ⟨0x1, 7⟩
  | .unitEncRdoFixImax => ⟨0x1, 8⟩
  | .unitEncRdoFixIop => ⟨0x1, 9⟩
  | .unitEncRdoPpsIop => ⟨0x1, 10⟩
  | .unitEncRdoPpsV => ⟨0x1, 11⟩
  | .statusDec => ⟨0x2, 0⟩
  | .eventDec => ⟨0x3, 0⟩
  | .eventEnc => ⟨0x4, 0⟩
  | .pdoDec => ⟨0x5, 0⟩
  | .pdoListDec => ⟨0x6, 0⟩
  | .pdoPackFixed => ⟨0x7, 0⟩
  | .pdoPackPps => ⟨0x7, 1⟩
  | .rdoEnc => ⟨0x8, 0⟩
  | .rdoDecFixed => ⟨0x9, 0⟩
  | .rdoDecPps => ⟨0x9, 1⟩
  | .rdoPackFixed => ⟨0xA, 0⟩
  | .rdoPackPps => ⟨0xA, 1⟩
  | .addrLookup => ⟨0xB, 0⟩

/-- An instruction is well formed when its command fields are legal. -/
def Instr.wellFormed (i : Instr) : Bool := i.cmd.wellFormed

end Sys2Proof
end

