-- ==== Sys2Proof/Decode.lean ====
section
/-! DEFINITION. The decoder, total on every command word, and the encoder beside it (R70 to R73, R84 to R86). -/

namespace Sys2Proof

/-- Why a command word is not legal (R84). Both end the transaction with IllegalOp. -/
inductive DecodeError where
  /-- OP is 0xC to 0xF. -/
  | reservedOp (op : BitVec 4)
  /-- OP is defined and SEL is outside its legal set. -/
  | illegalSel (op sel : BitVec 4)
  deriving DecidableEq, Repr

/-- The commands of one OP value in SEL order, from SEL = 0 (R71, R72); none for a reserved OP. -/
def opcodeRow (op : BitVec 4) : List Instr :=
  match op.toNat with
  | 0 =>
    [.unitDecStatV, .unitDecStatI, .unitDecStatT,
     .unitDecPdoFixI, .unitDecPdoFixV, .unitDecPdoPpsI,
     .unitDecPdoPpsVmin, .unitDecPdoPpsVmax, .unitDecRdoFixImax,
     .unitDecRdoFixIop, .unitDecRdoPpsIop, .unitDecRdoPpsV]
  | 1 =>
    [.unitEncStatV, .unitEncStatI, .unitEncStatT,
     .unitEncPdoFixI, .unitEncPdoFixV, .unitEncPdoPpsI,
     .unitEncPdoPpsVmin, .unitEncPdoPpsVmax, .unitEncRdoFixImax,
     .unitEncRdoFixIop, .unitEncRdoPpsIop, .unitEncRdoPpsV]
  | 2 => [.statusDec]
  | 3 => [.eventDec]
  | 4 => [.eventEnc]
  | 5 => [.pdoDec]
  | 6 => [.pdoListDec]
  | 7 => [.pdoPackFixed, .pdoPackPps]
  | 8 => [.rdoEnc]
  | 9 => [.rdoDecFixed, .rdoDecPps]
  | 10 => [.rdoPackFixed, .rdoPackPps]
  | 11 => [.addrLookup]
  | _ => []

/-- Decode a command word: OP = cmd[3:0] selects the operation, SEL = cmd[7:4] its form (R70 to R73). -/
def decode (cmd : Byte) : Except DecodeError Instr :=
  let op := cmd.extractLsb' 0 4
  let sel := cmd.extractLsb' 4 4
  match opcodeRow op with
  | [] => .error (.reservedOp op)
  | first :: rest =>
    match (first :: rest)[sel.toNat]? with
    | some i => .ok i
    | none => .error (.illegalSel op sel)

/-- The command word of each instruction (R73; opcode_table.json). -/
def encode : Instr → Byte
  | .unitDecStatV => 0x00
  | .unitDecStatI => 0x10
  | .unitDecStatT => 0x20
  | .unitDecPdoFixI => 0x30
  | .unitDecPdoFixV => 0x40
  | .unitDecPdoPpsI => 0x50
  | .unitDecPdoPpsVmin => 0x60
  | .unitDecPdoPpsVmax => 0x70
  | .unitDecRdoFixImax => 0x80
  | .unitDecRdoFixIop => 0x90
  | .unitDecRdoPpsIop => 0xA0
  | .unitDecRdoPpsV => 0xB0
  | .unitEncStatV => 0x01
  | .unitEncStatI => 0x11
  | .unitEncStatT => 0x21
  | .unitEncPdoFixI => 0x31
  | .unitEncPdoFixV => 0x41
  | .unitEncPdoPpsI => 0x51
  | .unitEncPdoPpsVmin => 0x61
  | .unitEncPdoPpsVmax => 0x71
  | .unitEncRdoFixImax => 0x81
  | .unitEncRdoFixIop => 0x91
  | .unitEncRdoPpsIop => 0xA1
  | .unitEncRdoPpsV => 0xB1
  | .statusDec => 0x02
  | .eventDec => 0x03
  | .eventEnc => 0x04
  | .pdoDec => 0x05
  | .pdoListDec => 0x06
  | .pdoPackFixed => 0x07
  | .pdoPackPps => 0x17
  | .rdoEnc => 0x08
  | .rdoDecFixed => 0x09
  | .rdoDecPps => 0x19
  | .rdoPackFixed => 0x0A
  | .rdoPackPps => 0x1A
  | .addrLookup => 0x0B

/-- The instruction of a pseudo-instruction (R86). -/
def PseudoInstr.expand : PseudoInstr → Instr
  | .voltDec => .unitDecStatV
  | .currDec => .unitDecStatI
  | .tempDec => .unitDecStatT

/-- The assembler spelling `MNEMONIC[.SELNAME]` of each instruction (R72, R85). -/
def Instr.mnemonic : Instr → String
  | .unitDecStatV => "UNIT_DEC.STAT_V"
  | .unitDecStatI => "UNIT_DEC.STAT_I"
  | .unitDecStatT => "UNIT_DEC.STAT_T"
  | .unitDecPdoFixI => "UNIT_DEC.PDO_FIX_I"
  | .unitDecPdoFixV => "UNIT_DEC.PDO_FIX_V"
  | .unitDecPdoPpsI => "UNIT_DEC.PDO_PPS_I"
  | .unitDecPdoPpsVmin => "UNIT_DEC.PDO_PPS_VMIN"
  | .unitDecPdoPpsVmax => "UNIT_DEC.PDO_PPS_VMAX"
  | .unitDecRdoFixImax => "UNIT_DEC.RDO_FIX_IMAX"
  | .unitDecRdoFixIop => "UNIT_DEC.RDO_FIX_IOP"
  | .unitDecRdoPpsIop => "UNIT_DEC.RDO_PPS_IOP"
  | .unitDecRdoPpsV => "UNIT_DEC.RDO_PPS_V"
  | .unitEncStatV => "UNIT_ENC.STAT_V"
  | .unitEncStatI => "UNIT_ENC.STAT_I"
  | .unitEncStatT => "UNIT_ENC.STAT_T"
  | .unitEncPdoFixI => "UNIT_ENC.PDO_FIX_I"
  | .unitEncPdoFixV => "UNIT_ENC.PDO_FIX_V"
  | .unitEncPdoPpsI => "UNIT_ENC.PDO_PPS_I"
  | .unitEncPdoPpsVmin => "UNIT_ENC.PDO_PPS_VMIN"
  | .unitEncPdoPpsVmax => "UNIT_ENC.PDO_PPS_VMAX"
  | .unitEncRdoFixImax => "UNIT_ENC.RDO_FIX_IMAX"
  | .unitEncRdoFixIop => "UNIT_ENC.RDO_FIX_IOP"
  | .unitEncRdoPpsIop => "UNIT_ENC.RDO_PPS_IOP"
  | .unitEncRdoPpsV => "UNIT_ENC.RDO_PPS_V"
  | .statusDec => "STATUS_DEC"
  | .eventDec => "EVENT_DEC"
  | .eventEnc => "EVENT_ENC"
  | .pdoDec => "PDO_DEC"
  | .pdoListDec => "PDO_LIST_DEC"
  | .pdoPackFixed => "PDO_PACK.FIXED"
  | .pdoPackPps => "PDO_PACK.PPS"
  | .rdoEnc => "RDO_ENC"
  | .rdoDecFixed => "RDO_DEC.FIXED"
  | .rdoDecPps => "RDO_DEC.PPS"
  | .rdoPackFixed => "RDO_PACK.FIXED"
  | .rdoPackPps => "RDO_PACK.PPS"
  | .addrLookup => "ADDR_LOOKUP"

/-- The mnemonics of the pseudo-instructions (R86). -/
def PseudoInstr.mnemonic : PseudoInstr → String
  | .voltDec => "VOLT_DEC"
  | .currDec => "CURR_DEC"
  | .tempDec => "TEMP_DEC"

/-- Every instruction, in the order of the opcode map (R71). -/
def allInstrs : List Instr := (List.range 16).flatMap fun op => opcodeRow (BitVec.ofNat 4 op)

/-- The instruction an assembler mnemonic names, a pseudo-instruction standing for its expansion (R85, R86). -/
def instrOfMnemonic (m : String) : Option Instr :=
  match [PseudoInstr.voltDec, .currDec, .tempDec].find? (fun p => p.mnemonic == m) with
  | some p => some p.expand
  | none => allInstrs.find? (fun i => i.mnemonic == m)

/-- What `decode` reads from a row of opcode_table.json: the command is one byte (R70), so a row of more than 8 bits is
no command; bits above `nbits` are 0 (assumption log 11). -/
def decodeTableWord (nbits w : Nat) : Option Instr :=
  if nbits ≤ 8 then (decode (BitVec.ofNat 8 (w % 2 ^ nbits))).toOption else none

end Sys2Proof
end

