-- ==== Sys2Proof/Machine/State.lean ====
section
/-! DEFINITION. The records of the block's ports (R28 to R35), its error kinds (R210), and the machine's state.

The block itself keeps nothing from one transaction to the next (R20 to R23, R27). What State holds is therefore the
configuration (R26), the transaction on the input ports (R28), the host's sequence of transactions still to come (R21)
and the answers given so far, in order, which are the run's observation (R12). The unit LUT (R24) and the register
address ROM (R25) are constants, not state that a step could change: they are the functions `lut` and `addrRom`. -/

namespace Sys2Proof.Machine

/-- The unit of a physical value (R35, R112). Code 3 has no constructor: it is never produced. -/
inductive PhysUnit where
  | mV
  | mA
  | degC
  deriving DecidableEq, Repr

/-- The LUT pipeline result (R35). -/
structure UnitRec where
  raw  : Word16
  phys : Word16
  unit : PhysUnit
  deriving DecidableEq, Repr

/-- The decoded status word (R30). -/
structure StatusRec where
  ready    : Bool
  success  : Bool
  newCaps  : Bool
  ovp      : Bool
  ocp      : Bool
  otp      : Bool
  dataRole : Bool
  vRaw     : BitVec 8
  iRaw     : BitVec 8
  tRaw     : BitVec 8
  vMV      : Word16
  iMA      : Word16
  tC       : Word16
  deriving DecidableEq, Repr

/-- The decoded event flags: four negotiation events, then four protection events (R31). -/
structure EventRec where
  negNewSuccess : Bool
  negNewFail    : Bool
  negSuccess    : Bool
  negFail       : Bool
  protOv        : Bool
  protOc        : Bool
  protOt        : Bool
  protDrChange  : Bool
  deriving DecidableEq, Repr

/-- The Fixed variant of a capability entry (R32). -/
structure FixedPdo where
  maxIRaw : BitVec 10
  vRaw    : BitVec 10
  maxIMA  : Word16
  vMV     : Word16
  deriving DecidableEq, Repr

/-- The PPS variant of a capability entry (R32). -/
structure PpsPdo where
  maxIRaw : BitVec 7
  minVRaw : BitVec 8
  maxVRaw : BitVec 8
  apdo    : BitVec 2
  maxIMA  : Word16
  minVMV  : Word16
  maxVMV  : Word16
  deriving DecidableEq, Repr

/-- A capability entry: exactly one variant is present (R11, R32). -/
inductive PdoRec where
  | fixed (r : FixedPdo)
  | pps (r : PpsPdo)
  deriving DecidableEq, Repr

/-- The Fixed variant of a request entry (R33). -/
structure FixedRdo where
  maxIRaw : BitVec 10
  opIRaw  : BitVec 10
  objPos  : BitVec 3
  maxIMA  : Word16
  opIMA   : Word16
  deriving DecidableEq, Repr

/-- The PPS variant of a request entry (R33). -/
structure PpsRdo where
  opIRaw : BitVec 7
  vRaw   : BitVec 11
  objPos : BitVec 3
  opIMA  : Word16
  vMV    : Word16
  deriving DecidableEq, Repr

/-- A request entry: exactly one variant is present (R11, R33). -/
inductive RdoRec where
  | fixed (r : FixedRdo)
  | pps (r : PpsRdo)
  deriving DecidableEq, Repr

/-- The payload shapes of the register address ROM, codes 0 to 7 in this order (R200). -/
inductive Shape where
  | pdoList
  | count
  | status
  | event
  | readV
  | readI
  | readT
  | rdo
  deriving DecidableEq, Repr

/-- The access direction of a register (R34): codes 1, 2 and 3. -/
inductive Access where
  | read
  | write
  | readWrite
  deriving DecidableEq, Repr

/-- One entry of the register address ROM (R34). -/
structure AddrRec where
  shape    : Shape
  elemSize : BitVec 3
  maxElems : BitVec 3
  access   : Access
  decCmd   : Byte
  deriving DecidableEq, Repr

/-- The error kinds (R210). UnrecognizedVariant carries the value of `err_idx` (R29). -/
inductive Err where
  | unrecognizedVariant (idx : BitVec 3)
  | valueOutOfRange
  | notExactStep
  | positionOutOfBounds
  | countOutOfRange
  | unknownAddress
  | illegalOp
  deriving DecidableEq, Repr

/-- The listed result of each operation (R36); the zero-driven outputs are no part of it. -/
inductive Result where
  /-- `unit_out`: UNIT_DEC, UNIT_ENC. -/
  | unit (r : UnitRec)
  /-- `status_out`: STATUS_DEC. -/
  | status (r : StatusRec)
  /-- `events_out`: EVENT_DEC. -/
  | events (r : EventRec)
  /-- `bytes_out[0..1]`: EVENT_ENC. -/
  | eventBytes (b0 b1 : Byte)
  /-- `pdo_len` and `pdo_out[1..pdo_len]`: PDO_DEC (one entry), PDO_LIST_DEC. -/
  | pdos (entries : List PdoRec)
  /-- `word_out`, `bytes_out[0..3]`: PDO_PACK, RDO_PACK. -/
  | packed (word : Word32) (bytes : Vector Byte 4)
  /-- `rdo_out`, `word_out`, `bytes_out[0..3]`: RDO_ENC. -/
  | request (r : RdoRec) (word : Word32) (bytes : Vector Byte 4)
  /-- `rdo_out`: RDO_DEC. -/
  | rdo (r : RdoRec)
  /-- `addr_out`: ADDR_LOOKUP. -/
  | addr (r : AddrRec)
  deriving DecidableEq, Repr

/-- A transaction's answer: a result or exactly one error, never both (R12). -/
abbrev Answer := Except Err Result

/-- The input ports of one transaction (R28). -/
structure InPorts where
  cmd  : Byte
  pay  : Vector Byte 28
  cnt  : Byte
  pos  : Byte
  reqI : Word16
  reqV : Word16
  val  : Word16
  evIn : EventRec
  fa   : Word16
  fb   : Word16
  fc   : Word16
  fd   : Word16
  deriving DecidableEq, Repr

/-- The wire form of a PdoRec: `kind` (0 = Fixed, 1 = Pps) and the fields of both variants (R32). -/
structure PdoWire where
  kind  : BitVec 1
  fixed : FixedPdo
  pps   : PpsPdo
  deriving DecidableEq, Repr

/-- The wire form of an RdoRec (R33). -/
structure RdoWire where
  kind  : BitVec 1
  fixed : FixedRdo
  pps   : PpsRdo
  deriving DecidableEq, Repr

/-- The wire form of a UnitRec (R35). -/
structure UnitWire where
  raw  : Word16
  phys : Word16
  unit : BitVec 2
  deriving DecidableEq, Repr

/-- The wire form of an AddrRec (R34). -/
structure AddrWire where
  shape    : BitVec 4
  elemSize : BitVec 3
  maxElems : BitVec 3
  access   : BitVec 2
  decCmd   : Byte
  deriving DecidableEq, Repr

/-- The output ports (R29). They are no state: `drive` computes them from an answer (R36, R211; assumption log 6). -/
structure OutPorts where
  err       : BitVec 3
  errIdx    : BitVec 3
  statusOut : StatusRec
  eventsOut : EventRec
  pdoLen    : BitVec 3
  pdoOut    : Vector PdoWire 7
  rdoOut    : RdoWire
  wordOut   : Word32
  bytesOut  : Vector Byte 4
  unitOut   : UnitWire
  addrOut   : AddrWire
  deriving DecidableEq, Repr

/-- The machine: a configuration and a host's run of transactions through the block. -/
structure State where
  /-- The build's parameters (R7, R26). No step writes them (assumption log 1). -/
  cfg      : Config
  /-- The transaction on the input ports, held stable while it is evaluated (R28, R59). -/
  inp      : InPorts
  /-- The transactions the host has still to present, the next one first (R21). The model's own field (assumption log 9). -/
  pending  : List InPorts
  /-- The answers given so far, the first one first: the run's observation (R12, R21). The model's own field (assumption log 9). -/
  observed : List Answer
  deriving DecidableEq, Repr

/-- A machine fault. There is none: every error of the block is an answer in its `err` port, after which it goes on
(R211, R214), and every operation is total (R12; assumption log 5). -/
inductive Fault where
  deriving DecidableEq, Repr

/-- Why the model gives an instruction no meaning. -/
inductive Refusal where
  /-- Raised by an arm of `exec` for an instruction the model has not reached; no arm raises it. Safe. -/
  | notModelled (mnemonic : String)
  deriving DecidableEq, Repr

/-- Every input port at 0: what an operand that a host line leaves out is (R85). -/
def InPorts.zero : InPorts :=
  { cmd := 0, pay := Vector.replicate 28 0, cnt := 0, pos := 0, reqI := 0, reqV := 0, val := 0
    evIn := ⟨false, false, false, false, false, false, false, false⟩, fa := 0, fb := 0, fc := 0, fd := 0 }

/-- The machine before its first transaction (R240, R241): the default build (R7), nothing observed, nothing pending.
The block has no reset value for its input ports; they stand at 0 (assumption log 3) until a transaction is presented. -/
def State.reset : State :=
  { cfg := Config.defaults, inp := InPorts.zero, pending := [], observed := [] }

end Sys2Proof.Machine
end

