-- ==== Sys2Proof/Machine/Rom.lean ====
section
/-! DEFINITION. The two constant tables of the block: the unit LUT (R24, R110) and the register address ROM (R25, R200),
with the numeric codes of their columns. -/

namespace Sys2Proof.Machine

/-- One LUT entry: unit, step (the physical value of one raw unit) and raw width in bits (R110). -/
structure LutEntry where
  unit  : PhysUnit
  step  : Nat
  width : Nat
  deriving DecidableEq, Repr

/-- The unit LUT (R110; assumption log 8). -/
def lut : LutIndex → LutEntry
  | .statV      => ⟨.mV, 80, 8⟩
  | .statI      => ⟨.mA, 24, 8⟩
  | .statT      => ⟨.degC, 1, 8⟩
  | .pdoFixI    => ⟨.mA, 10, 10⟩
  | .pdoFixV    => ⟨.mV, 50, 10⟩
  | .pdoPpsI    => ⟨.mA, 50, 7⟩
  | .pdoPpsVmin => ⟨.mV, 100, 8⟩
  | .pdoPpsVmax => ⟨.mV, 100, 8⟩
  | .rdoFixImax => ⟨.mA, 10, 10⟩
  | .rdoFixIop  => ⟨.mA, 10, 10⟩
  | .rdoPpsIop  => ⟨.mA, 50, 7⟩
  | .rdoPpsV    => ⟨.mV, 20, 11⟩

/-- The first raw value that does not fit an entry's field: 2^width (R110, R113). -/
def rawLimit (s : LutIndex) : Nat := 2 ^ (lut s).width

/-- The largest length of a capability list (R8). -/
def nMax : Nat := 7

/-- The code of a unit in `UnitRec.unit` (R112). -/
def unitCode : PhysUnit → BitVec 2
  | .mV   => 0
  | .mA   => 1
  | .degC => 2

/-- The code of a payload shape (R200). -/
def shapeCode : Shape → BitVec 4
  | .pdoList => 0
  | .count   => 1
  | .status  => 2
  | .event   => 3
  | .readV   => 4
  | .readI   => 5
  | .readT   => 6
  | .rdo     => 7

/-- The code of an access direction (R34). -/
def accessCode : Access → BitVec 2
  | .read      => 1
  | .write     => 2
  | .readWrite => 3

/-- The code of an error on the `err` port (R210). -/
def errCode : Err → BitVec 3
  | .unrecognizedVariant _ => 1
  | .valueOutOfRange       => 2
  | .notExactStep          => 3
  | .positionOutOfBounds   => 4
  | .countOutOfRange       => 5
  | .unknownAddress        => 6
  | .illegalOp             => 7

/-- The value of `err_idx` with an error: the position an UnrecognizedVariant records, else 0 (R29, R210). -/
def errIndex : Err → BitVec 3
  | .unrecognizedVariant idx => idx
  | _                        => 0

/-- The register address ROM: the entry of an 8-bit register address, if it has one (R200; assumption log 8). -/
def addrRom (a : Byte) : Option AddrRec :=
  match a.toNat with
  | 0x00 => some ⟨.pdoList, 4, 7, .read, 0x06⟩
  | 0x1C => some ⟨.count, 1, 1, .read, 0xFF⟩
  | 0x1D => some ⟨.status, 4, 1, .read, 0x02⟩
  | 0x1E => some ⟨.event, 2, 1, .readWrite, 0x03⟩
  | 0x20 => some ⟨.readV, 1, 1, .read, 0x00⟩
  | 0x21 => some ⟨.readI, 1, 1, .read, 0x10⟩
  | 0x22 => some ⟨.readT, 1, 1, .read, 0x20⟩
  | 0x30 => some ⟨.rdo, 4, 1, .write, 0x09⟩
  | _    => none

end Sys2Proof.Machine
end

