-- ==== Sys2Proof/Machine/Operands.lean ====
section
/-! DEFINITION. Operand forms: payload bytes, the assembly of a 32-bit word from a lane and its split into bytes (R51,
R54), the PDO tag (R76), and the operands of an assembler line (R85). -/

namespace Sys2Proof.Machine

/-- Payload byte `i` (R10). No operation asks for one outside 0 to 27 (R54); the default there is never read (assumption log 10). -/
def payByte (pay : Vector Byte 28) (i : Nat) : Byte := pay[i]?.getD 0

/-- The 32-bit word in four bytes, `b0` the first delivered (R51). -/
def wordOfBytes (o : WordOrder) (b0 b1 b2 b3 : Byte) : Word32 :=
  match o with
  | .le => b3 ++ b2 ++ b1 ++ b0
  | .be => b0 ++ b1 ++ b2 ++ b3

/-- `Word32(k)`: the word in lane `k`, `pay[4k .. 4k+3]` (R51). -/
def laneWord (o : WordOrder) (pay : Vector Byte 28) (k : Nat) : Word32 :=
  wordOfBytes o (payByte pay (4 * k)) (payByte pay (4 * k + 1)) (payByte pay (4 * k + 2)) (payByte pay (4 * k + 3))

/-- `Bytes4(w)`: the four bytes of a word (R51). -/
def bytes4 (o : WordOrder) (w : Word32) : Vector Byte 4 :=
  match o with
  | .le => #v[w.extractLsb' 0 8, w.extractLsb' 8 8, w.extractLsb' 16 8, w.extractLsb' 24 8]
  | .be => #v[w.extractLsb' 24 8, w.extractLsb' 16 8, w.extractLsb' 8 8, w.extractLsb' 0 8]

/-- The words of the first `n` lanes, lane 0 first (R51, R152). -/
def laneWords (o : WordOrder) (pay : Vector Byte 28) (n : Nat) : List Word32 :=
  (List.range n).map (laneWord o pay)

/-- The discriminator value of the PPS layout (R76). -/
def ppsTagBits : PpsTag → BitVec 2
  | .tag01 => 0b01
  | .tag10 => 0b10
  | .tag11 => 0b11

/-- The discriminator of a PDO word, bits 31:30 (R76). -/
def pdoTag (w : Word32) : BitVec 2 := w.extractLsb' 30 2

/-- A payload given from `pay[0]` upward, the rest 0 (R85 `pay=bytes[...]`; R28 for short payloads). -/
def payOfBytes (bs : List Byte) : Vector Byte 28 := Vector.ofFn fun i : Fin 28 => bs.getD i.val 0

/-- A payload given as words for lanes 0, 1, ..., which become bytes by `Bytes4` (R85 `pay=lanes[...]`). -/
def payOfLanes (o : WordOrder) (ws : List Word32) : Vector Byte 28 :=
  payOfBytes (ws.flatMap fun w => (bytes4 o w).toList)

/-- The operand of one `name=value` part of an assembler line (R85). -/
inductive AsmOperand where
  | payBytes (bs : List Byte)
  | payLanes (ws : List Word32)
  | cnt (v : Byte)
  | pos (v : Byte)
  | reqI (v : Word16)
  | reqV (v : Word16)
  | val (v : Word16)
  | evIn (v : EventRec)
  | fa (v : Word16)
  | fb (v : Word16)
  | fc (v : Word16)
  | fd (v : Word16)
  deriving DecidableEq, Repr

/-- The ports after one operand is placed on them (R85). -/
def AsmOperand.place (o : WordOrder) (p : InPorts) : AsmOperand → InPorts
  | .payBytes bs => { p with pay := payOfBytes bs }
  | .payLanes ws => { p with pay := payOfLanes o ws }
  | .cnt v  => { p with cnt := v }
  | .pos v  => { p with pos := v }
  | .reqI v => { p with reqI := v }
  | .reqV v => { p with reqV := v }
  | .val v  => { p with val := v }
  | .evIn v => { p with evIn := v }
  | .fa v   => { p with fa := v }
  | .fb v   => { p with fb := v }
  | .fc v   => { p with fc := v }
  | .fd v   => { p with fd := v }

/-- The transaction of an assembler line: its command byte and its operands, an operand left out being 0 (R85; assumption log 13). -/
def asmLine (o : WordOrder) (cmd : Byte) (operands : List AsmOperand) : InPorts :=
  operands.foldl (fun p a => a.place o p) { InPorts.zero with cmd := cmd }

/-- The transaction of an assembler line `MNEMONIC[.SELNAME] operand=value, ...`; none for an unknown mnemonic (R85). -/
def assemble (o : WordOrder) (mnemonic : String) (operands : List AsmOperand) : Option InPorts :=
  (instrOfMnemonic mnemonic).map fun i => asmLine o (encode i) operands

end Sys2Proof.Machine
end

