-- ==== Sys2Proof/Machine/Ops.lean ====
section
/-! DEFINITION. The named operations over the machine's state: presenting a transaction, answering it with a result or an
error, and the output ports an answer drives. The block has no memory (R50) and no register (R20) to operate on. -/

namespace Sys2Proof.Machine

/-- One answer joins the run's observation (R12, R21). Nothing else changes: a transaction leaves nothing in the block
(R20, R27). -/
def State.record (s : State) (a : Answer) : State := { s with observed := s.observed ++ [a] }

/-- A transaction ends with a result and error code 0 (R10 `return`). -/
def succeed (s : State) (r : Result) : State := s.record (.ok r)

/-- A transaction ends with an error and no result (R10 `raise`, R211): the block's whole exception entry. It saves no
state, changes no mode, masks nothing and sends control nowhere (R213); no later transaction is affected, so no return
from it exists (R214). -/
def raiseErr (s : State) (e : Err) : State := s.record (.error e)

/-- A transaction ends as its computation says: with its result or with its error. -/
def complete (s : State) (a : Except Err Result) : Host.Outcome State Fault Refusal :=
  match a with
  | .ok r => .next (succeed s r)
  | .error e => .next (raiseErr s e)

/-- The outcome of a command word that decodes to no operation: IllegalOp (R84). -/
def execIllegal (s : State) : Host.Outcome State Fault Refusal := .next (raiseErr s .illegalOp)

/-- A transaction put on the input ports, with the rest of the host's sequence behind it (R21, R59). -/
def State.present (s : State) (t : InPorts) (rest : List InPorts) : State :=
  { s with inp := t, pending := rest }

/-- The host presents its next transaction, if it has one (R21, R62). -/
def fetch (s : State) : Option State :=
  match s.pending with
  | [] => none
  | t :: rest => some (s.present t rest)

/-- What a step does when the host has no transaction to present: nothing is observed (R241; assumption log 2). -/
def idle (s : State) : Host.Outcome State Fault Refusal := .next s

/-- The state in which the host's sequence is `ts` (R21): how a program is given to the machine (assumption log 4). -/
def State.load (s : State) (ts : List InPorts) : State := { s with pending := ts }

/-- The absent Fixed half of a PdoRec's wire form (R32). -/
def noFixedPdo : FixedPdo := ⟨0, 0, 0, 0⟩

/-- The absent PPS half of a PdoRec's wire form (R32). -/
def noPpsPdo : PpsPdo := ⟨0, 0, 0, 0, 0, 0, 0⟩

/-- The absent Fixed half of an RdoRec's wire form (R33). -/
def noFixedRdo : FixedRdo := ⟨0, 0, 0, 0, 0⟩

/-- The absent PPS half of an RdoRec's wire form (R33). -/
def noPpsRdo : PpsRdo := ⟨0, 0, 0, 0, 0⟩

/-- The wire form of a PdoRec (R32). -/
def pdoWire : PdoRec → PdoWire
  | .fixed r => ⟨0, r, noPpsPdo⟩
  | .pps r => ⟨1, noFixedPdo, r⟩

/-- The wire form of an RdoRec (R33). -/
def rdoWire : RdoRec → RdoWire
  | .fixed r => ⟨0, r, noPpsRdo⟩
  | .pps r => ⟨1, noFixedRdo, r⟩

/-- The wire form of a UnitRec (R35, R112). -/
def unitWire (r : UnitRec) : UnitWire := ⟨r.raw, r.phys, unitCode r.unit⟩

/-- The wire form of an AddrRec (R34, R200). -/
def addrWire (r : AddrRec) : AddrWire := ⟨shapeCode r.shape, r.elemSize, r.maxElems, accessCode r.access, r.decCmd⟩

/-- Every output driven 0 (R36). -/
def OutPorts.zero : OutPorts :=
  { err := 0, errIdx := 0
    statusOut := ⟨false, false, false, false, false, false, false, 0, 0, 0, 0, 0, 0⟩
    eventsOut := ⟨false, false, false, false, false, false, false, false⟩
    pdoLen := 0, pdoOut := Vector.replicate 7 ⟨0, noFixedPdo, noPpsPdo⟩
    rdoOut := ⟨0, noFixedRdo, noPpsRdo⟩
    wordOut := 0, bytesOut := Vector.replicate 4 0, unitOut := ⟨0, 0, 0⟩, addrOut := ⟨0, 0, 0, 0, 0⟩ }

/-- The seven `pdo_out` wires of a list of entries, those beyond `pdo_len` driven 0 (R29, R36). -/
def pdoWires (entries : List PdoRec) : Vector PdoWire 7 :=
  Vector.ofFn fun k : Fin 7 => (entries[k.val]?.map pdoWire).getD ⟨0, noFixedPdo, noPpsPdo⟩

/-- The outputs a result drives; every output not listed for its operation is 0 (R36). -/
def driveResult : Result → OutPorts
  | .unit r => { OutPorts.zero with unitOut := unitWire r }
  | .status r => { OutPorts.zero with statusOut := r }
  | .events r => { OutPorts.zero with eventsOut := r }
  | .eventBytes b0 b1 => { OutPorts.zero with bytesOut := #v[b0, b1, 0, 0] }
  | .pdos es => { OutPorts.zero with pdoLen := BitVec.ofNat 3 es.length, pdoOut := pdoWires es }
  | .packed w bs => { OutPorts.zero with wordOut := w, bytesOut := bs }
  | .request r w bs => { OutPorts.zero with rdoOut := rdoWire r, wordOut := w, bytesOut := bs }
  | .rdo r => { OutPorts.zero with rdoOut := rdoWire r }
  | .addr r => { OutPorts.zero with addrOut := addrWire r }

/-- The outputs an answer drives: a result's, or the error's code and index with every other output 0 (R36, R211). -/
def drive : Answer → OutPorts
  | .ok r => driveResult r
  | .error e => { OutPorts.zero with err := errCode e, errIdx := errIndex e }

/-- The output ports as the last transaction drives them; before the first one they have no value (R37, R241;
assumption log 6). -/
def outPorts (s : State) : Option OutPorts := s.observed.getLast?.map drive

end Sys2Proof.Machine
end

