-- ==== Sys2Proof/Machine/AddressRom.lean ====
section
/-! DEFINITION. ADDR_LOOKUP over the register address ROM (R200 to R202). -/

namespace Sys2Proof.Machine

/-- ADDR_LOOKUP: `val[15:8]` must be 0 and `val[7:0]` an address of the ROM (R201). -/
def addrLookup (val : Word16) : Except Err Result :=
  if val.extractLsb' 8 8 ≠ 0 then .error .unknownAddress
  else
    match addrRom (val.extractLsb' 0 8) with
    | some r => .ok (.addr r)
    | none => .error .unknownAddress

/-- ADDR_LOOKUP (R201). -/
def execAddrLookup (s : State) : Host.Outcome State Fault Refusal :=
  complete s (addrLookup s.inp.val)

end Sys2Proof.Machine
end

