-- ==== Sys2Proof/Machine/UnitScaling.lean ====
section
/-! DEFINITION. The unit-scaling LUT pipeline: `Scale`, `Unscale` and the operations UNIT_DEC and UNIT_ENC (R110 to R117). -/

namespace Sys2Proof.Machine

/-- `Scale(s, raw)`: raw times the step, an exact product (R113, R115). -/
def scale {n : Nat} (s : LutIndex) (raw : BitVec n) : Word16 := BitVec.ofNat 16 (raw.toNat * (lut s).step)

/-- `Unscale(s, phys)`: the exact quotient by the step; the step is checked before the width (R114). -/
def unscale (s : LutIndex) (phys : Word16) : Except Err Nat :=
  if phys.toNat % (lut s).step ≠ 0 then .error .notExactStep
  else if phys.toNat / (lut s).step ≥ rawLimit s then .error .valueOutOfRange
  else .ok (phys.toNat / (lut s).step)

/-- UNIT_DEC of LUT entry `s` (R116). -/
def unitDec (s : LutIndex) (val : Word16) : Except Err Result :=
  if val.toNat ≥ rawLimit s then .error .valueOutOfRange
  else .ok (.unit { raw := val, phys := scale s val, unit := (lut s).unit })

/-- UNIT_ENC of LUT entry `s` (R117). -/
def unitEnc (s : LutIndex) (val : Word16) : Except Err Result :=
  match unscale s val with
  | .error e => .error e
  | .ok raw => .ok (.unit { raw := BitVec.ofNat 16 raw, phys := val, unit := (lut s).unit })

/-- UNIT_DEC with SEL = 0 (R72, R116). -/
def execUnitDecStatV (s : State) : Host.Outcome State Fault Refusal :=
  complete s (unitDec .statV s.inp.val)

/-- UNIT_DEC with SEL = 1 (R72, R116). -/
def execUnitDecStatI (s : State) : Host.Outcome State Fault Refusal :=
  complete s (unitDec .statI s.inp.val)

/-- UNIT_DEC with SEL = 2 (R72, R116). -/
def execUnitDecStatT (s : State) : Host.Outcome State Fault Refusal :=
  complete s (unitDec .statT s.inp.val)

/-- UNIT_DEC with SEL = 3 (R72, R116). -/
def execUnitDecPdoFixI (s : State) : Host.Outcome State Fault Refusal :=
  complete s (unitDec .pdoFixI s.inp.val)

/-- UNIT_DEC with SEL = 4 (R72, R116). -/
def execUnitDecPdoFixV (s : State) : Host.Outcome State Fault Refusal :=
  complete s (unitDec .pdoFixV s.inp.val)

/-- UNIT_DEC with SEL = 5 (R72, R116). -/
def execUnitDecPdoPpsI (s : State) : Host.Outcome State Fault Refusal :=
  complete s (unitDec .pdoPpsI s.inp.val)

/-- UNIT_DEC with SEL = 6 (R72, R116). -/
def execUnitDecPdoPpsVmin (s : State) : Host.Outcome State Fault Refusal :=
  complete s (unitDec .pdoPpsVmin s.inp.val)

/-- UNIT_DEC with SEL = 7 (R72, R116). -/
def execUnitDecPdoPpsVmax (s : State) : Host.Outcome State Fault Refusal :=
  complete s (unitDec .pdoPpsVmax s.inp.val)

/-- UNIT_DEC with SEL = 8 (R72, R116). -/
def execUnitDecRdoFixImax (s : State) : Host.Outcome State Fault Refusal :=
  complete s (unitDec .rdoFixImax s.inp.val)

/-- UNIT_DEC with SEL = 9 (R72, R116). -/
def execUnitDecRdoFixIop (s : State) : Host.Outcome State Fault Refusal :=
  complete s (unitDec .rdoFixIop s.inp.val)

/-- UNIT_DEC with SEL = 10 (R72, R116). -/
def execUnitDecRdoPpsIop (s : State) : Host.Outcome State Fault Refusal :=
  complete s (unitDec .rdoPpsIop s.inp.val)

/-- UNIT_DEC with SEL = 11 (R72, R116). -/
def execUnitDecRdoPpsV (s : State) : Host.Outcome State Fault Refusal :=
  complete s (unitDec .rdoPpsV s.inp.val)

/-- UNIT_ENC with SEL = 0 (R72, R117). -/
def execUnitEncStatV (s : State) : Host.Outcome State Fault Refusal :=
  complete s (unitEnc .statV s.inp.val)

/-- UNIT_ENC with SEL = 1 (R72, R117). -/
def execUnitEncStatI (s : State) : Host.Outcome State Fault Refusal :=
  complete s (unitEnc .statI s.inp.val)

/-- UNIT_ENC with SEL = 2 (R72, R117). -/
def execUnitEncStatT (s : State) : Host.Outcome State Fault Refusal :=
  complete s (unitEnc .statT s.inp.val)

/-- UNIT_ENC with SEL = 3 (R72, R117). -/
def execUnitEncPdoFixI (s : State) : Host.Outcome State Fault Refusal :=
  complete s (unitEnc .pdoFixI s.inp.val)

/-- UNIT_ENC with SEL = 4 (R72, R117). -/
def execUnitEncPdoFixV (s : State) : Host.Outcome State Fault Refusal :=
  complete s (unitEnc .pdoFixV s.inp.val)

/-- UNIT_ENC with SEL = 5 (R72, R117). -/
def execUnitEncPdoPpsI (s : State) : Host.Outcome State Fault Refusal :=
  complete s (unitEnc .pdoPpsI s.inp.val)

/-- UNIT_ENC with SEL = 6 (R72, R117). -/
def execUnitEncPdoPpsVmin (s : State) : Host.Outcome State Fault Refusal :=
  complete s (unitEnc .pdoPpsVmin s.inp.val)

/-- UNIT_ENC with SEL = 7 (R72, R117). -/
def execUnitEncPdoPpsVmax (s : State) : Host.Outcome State Fault Refusal :=
  complete s (unitEnc .pdoPpsVmax s.inp.val)

/-- UNIT_ENC with SEL = 8 (R72, R117). -/
def execUnitEncRdoFixImax (s : State) : Host.Outcome State Fault Refusal :=
  complete s (unitEnc .rdoFixImax s.inp.val)

/-- UNIT_ENC with SEL = 9 (R72, R117). -/
def execUnitEncRdoFixIop (s : State) : Host.Outcome State Fault Refusal :=
  complete s (unitEnc .rdoFixIop s.inp.val)

/-- UNIT_ENC with SEL = 10 (R72, R117). -/
def execUnitEncRdoPpsIop (s : State) : Host.Outcome State Fault Refusal :=
  complete s (unitEnc .rdoPpsIop s.inp.val)

/-- UNIT_ENC with SEL = 11 (R72, R117). -/
def execUnitEncRdoPpsV (s : State) : Host.Outcome State Fault Refusal :=
  complete s (unitEnc .rdoPpsV s.inp.val)

end Sys2Proof.Machine
end

