-- ==== Sys2Proof/Machine/Pdo.lean ====
section
/-! DEFINITION. The PDO-variant demultiplexer: `PdoDecode`, `PdoPack` and the operations PDO_DEC, PDO_LIST_DEC and
PDO_PACK (R76 to R78, R150 to R155). -/

namespace Sys2Proof.Machine

/-- The Fixed PDO layout, bits 29:20 ignored (R77, R150). -/
def fixedPdoOf (w : Word32) : FixedPdo :=
  let i : BitVec 10 := w.extractLsb' 0 10
  let v : BitVec 10 := w.extractLsb' 10 10
  { maxIRaw := i, vRaw := v, maxIMA := scale .pdoFixI i, vMV := scale .pdoFixV v }

/-- The PPS PDO layout, bits 7, 16 and 27:25 ignored, the sub-type carried through (R78, R150, R155). -/
def ppsPdoOf (w : Word32) : PpsPdo :=
  let i : BitVec 7 := w.extractLsb' 0 7
  let lo : BitVec 8 := w.extractLsb' 8 8
  let hi : BitVec 8 := w.extractLsb' 17 8
  { maxIRaw := i, minVRaw := lo, maxVRaw := hi, apdo := w.extractLsb' 28 2
    maxIMA := scale .pdoPpsI i, minVMV := scale .pdoPpsVmin lo, maxVMV := scale .pdoPpsVmax hi }

/-- `PdoDecode(w)`: the tag selects one layout; none where the tag is unrecognised (R76, R150). -/
def pdoDecode (c : Config) (w : Word32) : Option PdoRec :=
  if pdoTag w = 0b00#2 then some (.fixed (fixedPdoOf w))
  else if pdoTag w = ppsTagBits c.ppsTag then some (.pps (ppsPdoOf w))
  else none

/-- `PdoPack` of a Fixed record's raw fields: tag 0b00 and ten reserved zeros on top (R77, R153). -/
def pdoPackFixed (i v : BitVec 10) : Word32 := 0b00#2 ++ 0#10 ++ v ++ i

/-- `PdoPack` of a PPS record's raw fields, every reserved bit zero (R78, R153). -/
def pdoPackPps (c : Config) (i : BitVec 7) (lo hi : BitVec 8) (apdo : BitVec 2) : Word32 :=
  ppsTagBits c.ppsTag ++ apdo ++ 0#3 ++ hi ++ 0#1 ++ lo ++ 0#1 ++ i

/-- `PdoPack` of a record (R153). -/
def pdoPack (c : Config) : PdoRec → Word32
  | .fixed r => pdoPackFixed r.maxIRaw r.vRaw
  | .pps r => pdoPackPps c r.maxIRaw r.minVRaw r.maxVRaw r.apdo

/-- Decode words in ascending position, the first at position `k`; the lowest unrecognised one ends the transaction with
its position (R152, R212). -/
def decodeWords (c : Config) (k : Nat) : List Word32 → Except Err (List PdoRec)
  | [] => .ok []
  | w :: ws =>
    match pdoDecode c w with
    | none => .error (.unrecognizedVariant (BitVec.ofNat 3 k))
    | some e =>
      match decodeWords c (k + 1) ws with
      | .ok es => .ok (e :: es)
      | .error x => .error x

/-- PDO_DEC of lane 0; `err_idx` is 0 on its error (R151, R210). -/
def pdoDec (c : Config) (pay : Vector Byte 28) : Except Err Result :=
  match pdoDecode c (laneWord c.wordOrder pay 0) with
  | some e => .ok (.pdos [e])
  | none => .error (.unrecognizedVariant 0)

/-- PDO_LIST_DEC of the first `cnt` lanes (R152). -/
def pdoListDec (c : Config) (pay : Vector Byte 28) (cnt : Byte) : Except Err Result :=
  if cnt.toNat > nMax then .error .countOutOfRange
  else
    match decodeWords c 1 (laneWords c.wordOrder pay cnt.toNat) with
    | .ok es => .ok (.pdos es)
    | .error e => .error e

/-- A packed word and its payload bytes (R153, R174). -/
def packedWord (c : Config) (w : Word32) : Result := .packed w (bytes4 c.wordOrder w)

/-- PDO_PACK.FIXED: a field operand that does not fit its width is refused (R153). -/
def pdoPackFixedOp (c : Config) (fa fb : Word16) : Except Err Result :=
  if fa.toNat ≥ 2 ^ 10 ∨ fb.toNat ≥ 2 ^ 10 then .error .valueOutOfRange
  else .ok (packedWord c (pdoPackFixed (fa.setWidth 10) (fb.setWidth 10)))

/-- PDO_PACK.PPS (R153). -/
def pdoPackPpsOp (c : Config) (fa fb fc fd : Word16) : Except Err Result :=
  if fa.toNat ≥ 2 ^ 7 ∨ fb.toNat ≥ 2 ^ 8 ∨ fc.toNat ≥ 2 ^ 8 ∨ fd.toNat ≥ 2 ^ 2 then .error .valueOutOfRange
  else .ok (packedWord c (pdoPackPps c (fa.setWidth 7) (fb.setWidth 8) (fc.setWidth 8) (fd.setWidth 2)))

/-- PDO_DEC (R151). -/
def execPdoDec (s : State) : Host.Outcome State Fault Refusal :=
  complete s (pdoDec s.cfg s.inp.pay)

/-- PDO_LIST_DEC (R152). -/
def execPdoListDec (s : State) : Host.Outcome State Fault Refusal :=
  complete s (pdoListDec s.cfg s.inp.pay s.inp.cnt)

/-- PDO_PACK.FIXED (R153). -/
def execPdoPackFixed (s : State) : Host.Outcome State Fault Refusal :=
  complete s (pdoPackFixedOp s.cfg s.inp.fa s.inp.fb)

/-- PDO_PACK.PPS (R153). -/
def execPdoPackPps (s : State) : Host.Outcome State Fault Refusal :=
  complete s (pdoPackPpsOp s.cfg s.inp.fa s.inp.fb s.inp.fc s.inp.fd)

end Sys2Proof.Machine
end

