-- ==== Sys2Proof/Machine/Rdo.lean ====
section
/-! DEFINITION. The RDO encoder: `RdoDecode`, `RdoPack` and the operations RDO_ENC, RDO_DEC and RDO_PACK (R79 to R81, R170
to R177). -/

namespace Sys2Proof.Machine

/-- The Fixed RDO layout, bits 27:20 and 31 ignored (R79, R170). -/
def fixedRdoOf (w : Word32) : FixedRdo :=
  let m : BitVec 10 := w.extractLsb' 0 10
  let o : BitVec 10 := w.extractLsb' 10 10
  { maxIRaw := m, opIRaw := o, objPos := w.extractLsb' 28 3, maxIMA := scale .rdoFixImax m, opIMA := scale .rdoFixIop o }

/-- The PPS RDO layout, bits 8:7, 27:20 and 31 ignored (R80, R170). -/
def ppsRdoOf (w : Word32) : PpsRdo :=
  let o : BitVec 7 := w.extractLsb' 0 7
  let v : BitVec 11 := w.extractLsb' 9 11
  { opIRaw := o, vRaw := v, objPos := w.extractLsb' 28 3, opIMA := scale .rdoPpsIop o, vMV := scale .rdoPpsV v }

/-- `RdoDecode(variant, w)`: the word has no tag, the variant comes from outside it (R81, R170). -/
def rdoDecode (v : Variant) (w : Word32) : RdoRec :=
  match v with
  | .fixed => .fixed (fixedRdoOf w)
  | .pps => .pps (ppsRdoOf w)

/-- `RdoPack` of a Fixed record's raw fields, every reserved bit zero (R79, R171). -/
def rdoPackFixed (m o : BitVec 10) (p : BitVec 3) : Word32 := 0#1 ++ p ++ 0#8 ++ o ++ m

/-- `RdoPack` of a PPS record's raw fields, every reserved bit zero (R80, R171). -/
def rdoPackPps (o : BitVec 7) (v : BitVec 11) (p : BitVec 3) : Word32 := 0#1 ++ p ++ 0#8 ++ v ++ 0#2 ++ o

/-- `RdoPack` of a record (R171). -/
def rdoPack : RdoRec → Word32
  | .fixed r => rdoPackFixed r.maxIRaw r.opIRaw r.objPos
  | .pps r => rdoPackPps r.opIRaw r.vRaw r.objPos

/-- The answer of RDO_ENC once its word is built (R172). -/
def requestOf (c : Config) (v : Variant) (w : Word32) : Result := .request (rdoDecode v w) w (bytes4 c.wordOrder w)

/-- What a Fixed request's max-current field holds: the requested current or the entry's maximum (R7, R172). -/
def fixedRequestMax (c : Config) (op maxI : BitVec 10) : BitVec 10 :=
  match c.fixedRdoMax with
  | .requested => op
  | .pdoMax => maxI

/-- RDO_ENC against a Fixed entry: the step of the current, then its limit (R172, R212). -/
def requestFixed (c : Config) (e : FixedPdo) (pos : Byte) (reqI : Word16) : Except Err Result :=
  let o := reqI.toNat / (lut .rdoFixIop).step
  if reqI.toNat % (lut .rdoFixIop).step ≠ 0 then .error .notExactStep
  else if o > e.maxIRaw.toNat then .error .valueOutOfRange
  else
    let op := BitVec.ofNat 10 o
    .ok (requestOf c .fixed (rdoPackFixed (fixedRequestMax c op e.maxIRaw) op (pos.setWidth 3)))

/-- RDO_ENC against a PPS entry: both steps, current first, then both limits, current first (R172, R212). -/
def requestPps (c : Config) (e : PpsPdo) (pos : Byte) (reqI reqV : Word16) : Except Err Result :=
  let o := reqI.toNat / (lut .rdoPpsIop).step
  let v := reqV.toNat / (lut .rdoPpsV).step
  if reqI.toNat % (lut .rdoPpsIop).step ≠ 0 then .error .notExactStep
  else if reqV.toNat % (lut .rdoPpsV).step ≠ 0 then .error .notExactStep
  else if o > e.maxIRaw.toNat then .error .valueOutOfRange
  else if reqV.toNat < e.minVMV.toNat ∨ reqV.toNat > e.maxVMV.toNat then .error .valueOutOfRange
  else .ok (requestOf c .pps (rdoPackPps (BitVec.ofNat 7 o) (BitVec.ofNat 11 v) (pos.setWidth 3)))

/-- RDO_ENC: the checks in R212's order; only lane `pos - 1` is decoded (R172). -/
def rdoEnc (c : Config) (pay : Vector Byte 28) (cnt pos : Byte) (reqI reqV : Word16) : Except Err Result :=
  if cnt.toNat > nMax then .error .countOutOfRange
  else if pos.toNat = 0 ∨ pos.toNat > cnt.toNat then .error .positionOutOfBounds
  else
    match pdoDecode c (laneWord c.wordOrder pay (pos.toNat - 1)) with
    | none => .error (.unrecognizedVariant (pos.setWidth 3))
    | some (.fixed e) => requestFixed c e pos reqI
    | some (.pps e) => requestPps c e pos reqI reqV

/-- RDO_DEC of lane 0 in a given variant (R173). -/
def rdoDec (c : Config) (v : Variant) (pay : Vector Byte 28) : Except Err Result :=
  .ok (.rdo (rdoDecode v (laneWord c.wordOrder pay 0)))

/-- RDO_PACK.FIXED: a field operand that does not fit its width is refused (R174). -/
def rdoPackFixedOp (c : Config) (fa fb fc : Word16) : Except Err Result :=
  if fa.toNat ≥ 2 ^ 10 ∨ fb.toNat ≥ 2 ^ 10 ∨ fc.toNat ≥ 2 ^ 3 then .error .valueOutOfRange
  else .ok (packedWord c (rdoPackFixed (fa.setWidth 10) (fb.setWidth 10) (fc.setWidth 3)))

/-- RDO_PACK.PPS (R174). -/
def rdoPackPpsOp (c : Config) (fa fb fc : Word16) : Except Err Result :=
  if fa.toNat ≥ 2 ^ 7 ∨ fb.toNat ≥ 2 ^ 11 ∨ fc.toNat ≥ 2 ^ 3 then .error .valueOutOfRange
  else .ok (packedWord c (rdoPackPps (fa.setWidth 7) (fb.setWidth 11) (fc.setWidth 3)))

/-- RDO_ENC (R172). -/
def execRdoEnc (s : State) : Host.Outcome State Fault Refusal :=
  complete s (rdoEnc s.cfg s.inp.pay s.inp.cnt s.inp.pos s.inp.reqI s.inp.reqV)

/-- RDO_DEC.FIXED (R173). -/
def execRdoDecFixed (s : State) : Host.Outcome State Fault Refusal :=
  complete s (rdoDec s.cfg .fixed s.inp.pay)

/-- RDO_DEC.PPS (R173). -/
def execRdoDecPps (s : State) : Host.Outcome State Fault Refusal :=
  complete s (rdoDec s.cfg .pps s.inp.pay)

/-- RDO_PACK.FIXED (R174). -/
def execRdoPackFixed (s : State) : Host.Outcome State Fault Refusal :=
  complete s (rdoPackFixedOp s.cfg s.inp.fa s.inp.fb s.inp.fc)

/-- RDO_PACK.PPS (R174). -/
def execRdoPackPps (s : State) : Host.Outcome State Fault Refusal :=
  complete s (rdoPackPpsOp s.cfg s.inp.fa s.inp.fb s.inp.fc)

end Sys2Proof.Machine
end

