-- ==== Sys2Proof/Machine/Flags.lean ====
section
/-! DEFINITION. The flags of the status and event payloads. They are payload data (R22): the block has no flag register,
and no operation sets a flag as a side effect. -/

namespace Sys2Proof.Machine

/-- The value of one flag as a bit of a payload byte, at bit `n` (R141). -/
def flagBit (b : Bool) (n : Nat) : Byte := (BitVec.ofBool b).setWidth 8 <<< n

/-- The seven flags of the status byte, bit 3 ignored, with the three readings and their physical values (R74, R130). -/
def statusOf (b v i t : Byte) (vMV iMA tC : Word16) : StatusRec :=
  { ready := b.getLsbD 0, success := b.getLsbD 1, newCaps := b.getLsbD 2
    ovp := b.getLsbD 4, ocp := b.getLsbD 5, otp := b.getLsbD 6, dataRole := b.getLsbD 7
    vRaw := v, iRaw := i, tRaw := t, vMV := vMV, iMA := iMA, tC := tC }

/-- The event flags of the negotiation byte `n` and the protection byte `p`, bits 7:4 of each ignored (R75, R140; assumption log 7). -/
def eventsOf (n p : Byte) : EventRec :=
  { negNewSuccess := n.getLsbD 0, negNewFail := n.getLsbD 1, negSuccess := n.getLsbD 2, negFail := n.getLsbD 3
    protOv := p.getLsbD 0, protOc := p.getLsbD 1, protOt := p.getLsbD 2, protDrChange := p.getLsbD 3 }

/-- The negotiation byte of an EventRec, bits 7:4 zero (R141). -/
def negotiationByte (e : EventRec) : Byte :=
  flagBit e.negNewSuccess 0 ||| flagBit e.negNewFail 1 ||| flagBit e.negSuccess 2 ||| flagBit e.negFail 3

/-- The protection byte of an EventRec, bits 7:4 zero (R141). -/
def protectionByte (e : EventRec) : Byte :=
  flagBit e.protOv 0 ||| flagBit e.protOc 1 ||| flagBit e.protOt 2 ||| flagBit e.protDrChange 3

end Sys2Proof.Machine
end

