-- ==== Sys2Proof/Machine/StatusEvents.lean ====
section
/-! DEFINITION. The status-flags decoder: STATUS_DEC (R130 to R133), EVENT_DEC and EVENT_ENC (R140 to R143). -/

namespace Sys2Proof.Machine

/-- The status payload `pay[0..3]` as a record (R130). `WORD_ORDER` does not apply to it (R52). -/
def statusDecode (pay : Vector Byte 28) : StatusRec :=
  statusOf (payByte pay 0) (payByte pay 1) (payByte pay 2) (payByte pay 3)
    (scale .statV (payByte pay 1)) (scale .statI (payByte pay 2)) (scale .statT (payByte pay 3))

/-- The event/mask payload `pay[0..1]` as a record (R52, R140). -/
def eventDecode (pay : Vector Byte 28) : EventRec := eventsOf (payByte pay 0) (payByte pay 1)

/-- STATUS_DEC (R130). -/
def execStatusDec (s : State) : Host.Outcome State Fault Refusal :=
  complete s (.ok (.status (statusDecode s.inp.pay)))

/-- EVENT_DEC (R140). -/
def execEventDec (s : State) : Host.Outcome State Fault Refusal :=
  complete s (.ok (.events (eventDecode s.inp.pay)))

/-- EVENT_ENC (R141). -/
def execEventEnc (s : State) : Host.Outcome State Fault Refusal :=
  complete s (.ok (.eventBytes (negotiationByte s.inp.evIn) (protectionByte s.inp.evIn)))

end Sys2Proof.Machine
end

