-- ==== Sys2Proof/Machine/Dispatch.lean ====
section
/-! DEFINITION. The meaning of each command, one direct call an arm (R71). -/

namespace Sys2Proof.Machine

def exec (i : Instr) (s : State) : Host.Outcome State Fault Refusal :=
  match i with
  | .unitDecStatV => Sys2Proof.Machine.execUnitDecStatV s
  | .unitDecStatI => Sys2Proof.Machine.execUnitDecStatI s
  | .unitDecStatT => Sys2Proof.Machine.execUnitDecStatT s
  | .unitDecPdoFixI => Sys2Proof.Machine.execUnitDecPdoFixI s
  | .unitDecPdoFixV => Sys2Proof.Machine.execUnitDecPdoFixV s
  | .unitDecPdoPpsI => Sys2Proof.Machine.execUnitDecPdoPpsI s
  | .unitDecPdoPpsVmin => Sys2Proof.Machine.execUnitDecPdoPpsVmin s
  | .unitDecPdoPpsVmax => Sys2Proof.Machine.execUnitDecPdoPpsVmax s
  | .unitDecRdoFixImax => Sys2Proof.Machine.execUnitDecRdoFixImax s
  | .unitDecRdoFixIop => Sys2Proof.Machine.execUnitDecRdoFixIop s
  | .unitDecRdoPpsIop => Sys2Proof.Machine.execUnitDecRdoPpsIop s
  | .unitDecRdoPpsV => Sys2Proof.Machine.execUnitDecRdoPpsV s
  | .unitEncStatV => Sys2Proof.Machine.execUnitEncStatV s
  | .unitEncStatI => Sys2Proof.Machine.execUnitEncStatI s
  | .unitEncStatT => Sys2Proof.Machine.execUnitEncStatT s
  | .unitEncPdoFixI => Sys2Proof.Machine.execUnitEncPdoFixI s
  | .unitEncPdoFixV => Sys2Proof.Machine.execUnitEncPdoFixV s
  | .unitEncPdoPpsI => Sys2Proof.Machine.execUnitEncPdoPpsI s
  | .unitEncPdoPpsVmin => Sys2Proof.Machine.execUnitEncPdoPpsVmin s
  | .unitEncPdoPpsVmax => Sys2Proof.Machine.execUnitEncPdoPpsVmax s
  | .unitEncRdoFixImax => Sys2Proof.Machine.execUnitEncRdoFixImax s
  | .unitEncRdoFixIop => Sys2Proof.Machine.execUnitEncRdoFixIop s
  | .unitEncRdoPpsIop => Sys2Proof.Machine.execUnitEncRdoPpsIop s
  | .unitEncRdoPpsV => Sys2Proof.Machine.execUnitEncRdoPpsV s
  | .statusDec => Sys2Proof.Machine.execStatusDec s
  | .eventDec => Sys2Proof.Machine.execEventDec s
  | .eventEnc => Sys2Proof.Machine.execEventEnc s
  | .pdoDec => Sys2Proof.Machine.execPdoDec s
  | .pdoListDec => Sys2Proof.Machine.execPdoListDec s
  | .pdoPackFixed => Sys2Proof.Machine.execPdoPackFixed s
  | .pdoPackPps => Sys2Proof.Machine.execPdoPackPps s
  | .rdoEnc => Sys2Proof.Machine.execRdoEnc s
  | .rdoDecFixed => Sys2Proof.Machine.execRdoDecFixed s
  | .rdoDecPps => Sys2Proof.Machine.execRdoDecPps s
  | .rdoPackFixed => Sys2Proof.Machine.execRdoPackFixed s
  | .rdoPackPps => Sys2Proof.Machine.execRdoPackPps s
  | .addrLookup => Sys2Proof.Machine.execAddrLookup s

end Sys2Proof.Machine
end

