-- ==== Sys2Proof/Machine/Step.lean ====
section
/-! DEFINITION. One step of the machine: one transaction (R59, R246), or nothing where the host presents none. -/

namespace Sys2Proof.Machine

/-- The host presents its next transaction and the block answers it: by the operation its command selects, or by
IllegalOp (R21, R71, R84). -/
def step (s : State) : Host.Outcome State Fault Refusal :=
  match fetch s with
  | none => idle s
  | some s' =>
    match decode s'.inp.cmd with
    | .ok i => exec i s'
    | .error _ => execIllegal s'

/-- `s` with the command word `w` on the next transaction: the host's next one where it has one, else one whose operands
are those on the input ports (assumption log 4). The command is one byte, so bits from `nbits` up are 0. -/
def State.withFetchWord (s : State) (nbits w : Nat) : State :=
  { s with pending := { s.pending.headD s.inp with cmd := BitVec.ofNat 8 (w % 2 ^ nbits) } :: s.pending.tail }

end Sys2Proof.Machine
end

