-- ==== Sys2Proof/Safety.lean ====
section
/-! DEFINITION. What a sound answer is, and the invariant of a run: every answer the block has given is sound. The terms
are the spec's own: well-formed words (00_scope.md glossary), reserved masks (R82), steps and widths (R110). -/

namespace Sys2Proof.Machine

/-- The reserved bits of each 32-bit layout (R82). -/
def fixedPdoReserved : Word32 := 0x3FF00000
/-- PPS PDO (R82). -/
def ppsPdoReserved : Word32 := 0x0E010080
/-- Fixed RDO (R82). -/
def fixedRdoReserved : Word32 := 0x8FF00000
/-- PPS RDO (R82). -/
def ppsRdoReserved : Word32 := 0x8FF00180

/-- The reserved bits of an RDO layout (R82). -/
def rdoReserved : Variant → Word32
  | .fixed => fixedRdoReserved
  | .pps => ppsRdoReserved

/-- A PDO word whose tag is recognised and whose reserved bits are zero (00_scope.md glossary, R154). -/
def WellFormedPdo (c : Config) (w : Word32) : Prop :=
  (pdoTag w = 0b00#2 ∧ w &&& fixedPdoReserved = 0) ∨ (pdoTag w = ppsTagBits c.ppsTag ∧ w &&& ppsPdoReserved = 0)

/-- An RDO word whose reserved bits are zero in the given variant (00_scope.md glossary, R175). -/
def WellFormedRdo (v : Variant) (w : Word32) : Prop := w &&& rdoReserved v = 0

/-- The variant of a request entry (R33). -/
def rdoVariant : RdoRec → Variant
  | .fixed _ => .fixed
  | .pps _ => .pps

/-- The object position of a request entry (R33). -/
def rdoObjPos : RdoRec → BitVec 3
  | .fixed r => r.objPos
  | .pps r => r.objPos

/-- A LUT result fits one of the LUT's fields and carries that field's unit and step (R35, R110). -/
def UnitScaled (r : UnitRec) : Prop :=
  ∃ i : LutIndex, r.raw.toNat < 2 ^ (lut i).width ∧ r.phys.toNat = r.raw.toNat * (lut i).step ∧ r.unit = (lut i).unit

/-- The status readings carry their steps: 80 mV, 24 mA, 1 °C (R30). -/
def StatusScaled (r : StatusRec) : Prop :=
  r.vMV.toNat = r.vRaw.toNat * 80 ∧ r.iMA.toNat = r.iRaw.toNat * 24 ∧ r.tC.toNat = r.tRaw.toNat

/-- A capability entry's physical values are its raw ones times their steps (R32). -/
def PdoScaled : PdoRec → Prop
  | .fixed r => r.maxIMA.toNat = r.maxIRaw.toNat * 10 ∧ r.vMV.toNat = r.vRaw.toNat * 50
  | .pps r => r.maxIMA.toNat = r.maxIRaw.toNat * 50 ∧ r.minVMV.toNat = r.minVRaw.toNat * 100 ∧
      r.maxVMV.toNat = r.maxVRaw.toNat * 100

/-- A request entry's physical values are its raw ones times their steps (R33). -/
def RdoScaled : RdoRec → Prop
  | .fixed r => r.maxIMA.toNat = r.maxIRaw.toNat * 10 ∧ r.opIMA.toNat = r.opIRaw.toNat * 10
  | .pps r => r.opIMA.toNat = r.opIRaw.toNat * 50 ∧ r.vMV.toNat = r.vRaw.toNat * 20

/-- A sound result of a build: records scaled, words well formed, bytes those of the word, reserved bits zero. -/
def ResultSound (c : Config) : Result → Prop
  | .unit r => UnitScaled r
  | .status r => StatusScaled r
  | .events _ => True
  | .eventBytes b0 b1 => b0 &&& 0xF0 = 0 ∧ b1 &&& 0xF0 = 0
  | .pdos es => es.length ≤ 7 ∧ ∀ e ∈ es, PdoScaled e
  | .packed w bs => (WellFormedPdo c w ∨ WellFormedRdo .fixed w ∨ WellFormedRdo .pps w) ∧ bs = bytes4 c.wordOrder w
  | .request r w bs => RdoScaled r ∧ r = rdoDecode (rdoVariant r) w ∧ WellFormedRdo (rdoVariant r) w ∧
      rdoObjPos r ≠ 0 ∧ bs = bytes4 c.wordOrder w
  | .rdo r => RdoScaled r
  | .addr r => ∃ a : Byte, addrRom a = some r

/-- A sound answer: a sound result, or an error alone (R12, R211). -/
def AnswerSound (c : Config) : Answer → Prop
  | .ok r => ResultSound c r
  | .error _ => True

/-- The invariant of a run: every answer given so far is sound for the build. -/
def Sound (s : State) : Prop := ∀ a ∈ s.observed, AnswerSound s.cfg a

end Sys2Proof.Machine
end

