-- ==== Sys2Proof/Certificates/Slice0/Obligations.lean ====
section
/-! DEFINITION. The statements for the provers. Each says which rule of the spec it formalises. Where a step adds one
answer to the observation, the whole next state is written out, so the statement is also the frame: the configuration,
the ports and the rest of the host's sequence are unchanged. -/

open Sys2Proof Sys2Proof.Machine

namespace Sys2Proof.Claims

/-- The state after a transaction that answers `a`: everything else is as before. -/
def answered (s : State) (a : Answer) : State :=
  { cfg := s.cfg, inp := s.inp, pending := s.pending, observed := s.observed ++ [a] }

/-- The state in which the host's next transaction is on the ports. -/
def presented (s : State) (t : InPorts) (rest : List InPorts) : State :=
  { cfg := s.cfg, inp := t, pending := rest, observed := s.observed }

/-- A command with this OP and a SEL of `n` or more ends in IllegalOp, with no result and nothing else changed. -/
def IllegalFrom (op : BitVec 4) (n : Nat) : Prop :=
  ∀ (s : State) (t : InPorts) (rest : List InPorts), s.pending = t :: rest →
    t.cmd.extractLsb' 0 4 = op → n ≤ (t.cmd.extractLsb' 4 4).toNat →
    step s = .next (answered (presented s t rest) (.error .illegalOp))

/-- One row of R110's table, with the two commands of its index. -/
structure UnitRow where
  index : Nat
  entry : LutIndex
  dec   : Instr
  enc   : Instr
  unit  : PhysUnit
  step  : Nat
  width : Nat
  rawMax  : Nat
  physMax : Nat

/-- R110's table, transcribed. -/
def unitRows : List UnitRow :=
  [⟨0, .statV, .unitDecStatV, .unitEncStatV, .mV, 80, 8, 255, 20400⟩,
   ⟨1, .statI, .unitDecStatI, .unitEncStatI, .mA, 24, 8, 255, 6120⟩,
   ⟨2, .statT, .unitDecStatT, .unitEncStatT, .degC, 1, 8, 255, 255⟩,
   ⟨3, .pdoFixI, .unitDecPdoFixI, .unitEncPdoFixI, .mA, 10, 10, 1023, 10230⟩,
   ⟨4, .pdoFixV, .unitDecPdoFixV, .unitEncPdoFixV, .mV, 50, 10, 1023, 51150⟩,
   ⟨5, .pdoPpsI, .unitDecPdoPpsI, .unitEncPdoPpsI, .mA, 50, 7, 127, 6350⟩,
   ⟨6, .pdoPpsVmin, .unitDecPdoPpsVmin, .unitEncPdoPpsVmin, .mV, 100, 8, 255, 25500⟩,
   ⟨7, .pdoPpsVmax, .unitDecPdoPpsVmax, .unitEncPdoPpsVmax, .mV, 100, 8, 255, 25500⟩,
   ⟨8, .rdoFixImax, .unitDecRdoFixImax, .unitEncRdoFixImax, .mA, 10, 10, 1023, 10230⟩,
   ⟨9, .rdoFixIop, .unitDecRdoFixIop, .unitEncRdoFixIop, .mA, 10, 10, 1023, 10230⟩,
   ⟨10, .rdoPpsIop, .unitDecRdoPpsIop, .unitEncRdoPpsIop, .mA, 50, 7, 127, 6350⟩,
   ⟨11, .rdoPpsV, .unitDecRdoPpsV, .unitEncRdoPpsV, .mV, 20, 11, 2047, 40940⟩]

/-- The 37 legal command words of R73 and the command each one is. -/
def legalWords : List (Byte × Instr) :=
  [(0x00, .unitDecStatV), (0x10, .unitDecStatI), (0x20, .unitDecStatT), (0x30, .unitDecPdoFixI),
   (0x40, .unitDecPdoFixV), (0x50, .unitDecPdoPpsI), (0x60, .unitDecPdoPpsVmin), (0x70, .unitDecPdoPpsVmax),
   (0x80, .unitDecRdoFixImax), (0x90, .unitDecRdoFixIop), (0xA0, .unitDecRdoPpsIop), (0xB0, .unitDecRdoPpsV),
   (0x01, .unitEncStatV), (0x11, .unitEncStatI), (0x21, .unitEncStatT), (0x31, .unitEncPdoFixI),
   (0x41, .unitEncPdoFixV), (0x51, .unitEncPdoPpsI), (0x61, .unitEncPdoPpsVmin), (0x71, .unitEncPdoPpsVmax),
   (0x81, .unitEncRdoFixImax), (0x91, .unitEncRdoFixIop), (0xA1, .unitEncRdoPpsIop), (0xB1, .unitEncRdoPpsV),
   (0x02, .statusDec), (0x03, .eventDec), (0x04, .eventEnc), (0x05, .pdoDec), (0x06, .pdoListDec),
   (0x07, .pdoPackFixed), (0x17, .pdoPackPps), (0x08, .rdoEnc), (0x09, .rdoDecFixed), (0x19, .rdoDecPps),
   (0x0A, .rdoPackFixed), (0x1A, .rdoPackPps), (0x0B, .addrLookup)]

/-- R200's table, transcribed: address, shape code, element size, elements, access, decoding command. -/
def romRows : List (Nat × AddrRec × BitVec 4 × BitVec 2) :=
  [(0x00, ⟨.pdoList, 4, 7, .read, 0x06⟩, 0, 1), (0x1C, ⟨.count, 1, 1, .read, 0xFF⟩, 1, 1),
   (0x1D, ⟨.status, 4, 1, .read, 0x02⟩, 2, 1), (0x1E, ⟨.event, 2, 1, .readWrite, 0x03⟩, 3, 3),
   (0x20, ⟨.readV, 1, 1, .read, 0x00⟩, 4, 1), (0x21, ⟨.readI, 1, 1, .read, 0x10⟩, 5, 1),
   (0x22, ⟨.readT, 1, 1, .read, 0x20⟩, 6, 1), (0x30, ⟨.rdo, 4, 1, .write, 0x09⟩, 7, 2)]

/-- Two transactions agree on the ports that R28's table says `i` reads, as narrowed by the operation's own rule. -/
def SamePortsRead (i : Instr) (p q : InPorts) : Prop :=
  match i with
  | .unitDecStatV | .unitDecStatI | .unitDecStatT | .unitDecPdoFixI | .unitDecPdoFixV | .unitDecPdoPpsI
  | .unitDecPdoPpsVmin | .unitDecPdoPpsVmax | .unitDecRdoFixImax | .unitDecRdoFixIop | .unitDecRdoPpsIop
  | .unitDecRdoPpsV | .unitEncStatV | .unitEncStatI | .unitEncStatT | .unitEncPdoFixI | .unitEncPdoFixV
  | .unitEncPdoPpsI | .unitEncPdoPpsVmin | .unitEncPdoPpsVmax | .unitEncRdoFixImax | .unitEncRdoFixIop
  | .unitEncRdoPpsIop | .unitEncRdoPpsV | .addrLookup => p.val = q.val
  | .statusDec | .pdoDec | .rdoDecFixed | .rdoDecPps => ∀ k : Fin 28, k.val < 4 → p.pay[k] = q.pay[k]
  | .eventDec => ∀ k : Fin 28, k.val < 2 → p.pay[k] = q.pay[k]
  | .eventEnc => p.evIn = q.evIn
  | .pdoListDec => p.cnt = q.cnt ∧ ∀ k : Fin 28, k.val < 4 * p.cnt.toNat → p.pay[k] = q.pay[k]
  | .pdoPackFixed => p.fa = q.fa ∧ p.fb = q.fb
  | .pdoPackPps => p.fa = q.fa ∧ p.fb = q.fb ∧ p.fc = q.fc ∧ p.fd = q.fd
  | .rdoEnc => p.cnt = q.cnt ∧ p.pos = q.pos ∧ p.reqI = q.reqI ∧ p.reqV = q.reqV ∧
      ∀ k : Fin 28, 4 * p.pos.toNat ≤ k.val + 4 → k.val < 4 * p.pos.toNat → p.pay[k] = q.pay[k]
  | .rdoPackFixed | .rdoPackPps => p.fa = q.fa ∧ p.fb = q.fb ∧ p.fc = q.fc

/-- The errors R210's table lets an operation raise. -/
def mayRaise (i : Instr) : Err → Prop
  | .unrecognizedVariant idx =>
      (i = .pdoDec ∧ idx = 0) ∨ (i = .pdoListDec ∧ idx ≠ 0) ∨ (i = .rdoEnc ∧ idx ≠ 0)
  | .valueOutOfRange => (∃ r ∈ unitRows, i = r.dec ∨ i = r.enc) ∨
      i = .rdoEnc ∨ i = .pdoPackFixed ∨ i = .pdoPackPps ∨ i = .rdoPackFixed ∨ i = .rdoPackPps
  | .notExactStep => i = .rdoEnc ∨ ∃ r ∈ unitRows, i = r.enc
  | .positionOutOfBounds => i = .rdoEnc
  | .countOutOfRange => i = .rdoEnc ∨ i = .pdoListDec
  | .unknownAddress => i = .addrLookup
  | .illegalOp => False

/-- Every output port of R29 at 0, written out field by field (R30 to R35). -/
def allZero : OutPorts :=
  { err := 0, errIdx := 0
    statusOut := { ready := false, success := false, newCaps := false, ovp := false, ocp := false, otp := false,
                   dataRole := false, vRaw := 0, iRaw := 0, tRaw := 0, vMV := 0, iMA := 0, tC := 0 }
    eventsOut := { negNewSuccess := false, negNewFail := false, negSuccess := false, negFail := false,
                   protOv := false, protOc := false, protOt := false, protDrChange := false }
    pdoLen := 0
    pdoOut := Vector.replicate 7 { kind := 0, fixed := ⟨0, 0, 0, 0⟩, pps := ⟨0, 0, 0, 0, 0, 0, 0⟩ }
    rdoOut := { kind := 0, fixed := ⟨0, 0, 0, 0, 0⟩, pps := ⟨0, 0, 0, 0, 0⟩ }
    wordOut := 0, bytesOut := #v[0, 0, 0, 0], unitOut := ⟨0, 0, 0⟩, addrOut := ⟨0, 0, 0, 0, 0⟩ }

/-- R35, R112: the code of a unit. -/
def unitNumber : PhysUnit → BitVec 2
  | .mV => 0
  | .mA => 1
  | .degC => 2

/-- R210: the code of an error. -/
def errNumber : Err → BitVec 3
  | .unrecognizedVariant _ => 1
  | .valueOutOfRange => 2
  | .notExactStep => 3
  | .positionOutOfBounds => 4
  | .countOutOfRange => 5
  | .unknownAddress => 6
  | .illegalOp => 7

/-- R29: `err_idx` after an error. -/
def errPosition : Err → BitVec 3
  | .unrecognizedVariant idx => idx
  | _ => 0

/-- R32: `pdo_out[k + 1]` for the entries `es`: kind 0 = Fixed, 1 = Pps, the absent variant 0, and 0 beyond the list. -/
def pdoPort (es : List PdoRec) (k : Nat) : PdoWire :=
  match es[k]? with
  | some (.fixed r) => { kind := 0, fixed := r, pps := ⟨0, 0, 0, 0, 0, 0, 0⟩ }
  | some (.pps r) => { kind := 1, fixed := ⟨0, 0, 0, 0⟩, pps := r }
  | none => { kind := 0, fixed := ⟨0, 0, 0, 0⟩, pps := ⟨0, 0, 0, 0, 0, 0, 0⟩ }

/-- R33: `rdo_out` for a request entry: kind 0 = Fixed, 1 = Pps, the absent variant 0. -/
def rdoPort : RdoRec → RdoWire
  | .fixed r => { kind := 0, fixed := r, pps := ⟨0, 0, 0, 0, 0⟩ }
  | .pps r => { kind := 1, fixed := ⟨0, 0, 0, 0, 0⟩, pps := r }

/-- R36's table: on success with result `r`, the ports `o` carry `r` on the outputs listed for `i`, and 0 on every other.
Entry k of `pdo_out` counts from 0 here. -/
def CarriesResult (i : Instr) (r : Result) (o : OutPorts) : Prop :=
  match i with
  | .unitDecStatV | .unitDecStatI | .unitDecStatT | .unitDecPdoFixI | .unitDecPdoFixV | .unitDecPdoPpsI
  | .unitDecPdoPpsVmin | .unitDecPdoPpsVmax | .unitDecRdoFixImax | .unitDecRdoFixIop | .unitDecRdoPpsIop
  | .unitDecRdoPpsV | .unitEncStatV | .unitEncStatI | .unitEncStatT | .unitEncPdoFixI | .unitEncPdoFixV
  | .unitEncPdoPpsI | .unitEncPdoPpsVmin | .unitEncPdoPpsVmax | .unitEncRdoFixImax | .unitEncRdoFixIop
  | .unitEncRdoPpsIop | .unitEncRdoPpsV =>
      ∃ u, r = .unit u ∧ o = { allZero with unitOut := { raw := u.raw, phys := u.phys, unit := unitNumber u.unit } }
  | .statusDec => ∃ x, r = .status x ∧ o = { allZero with statusOut := x }
  | .eventDec => ∃ x, r = .events x ∧ o = { allZero with eventsOut := x }
  | .eventEnc => ∃ b0 b1, r = .eventBytes b0 b1 ∧ o = { allZero with bytesOut := #v[b0, b1, 0, 0] }
  | .pdoDec => ∃ e, r = .pdos [e] ∧
      o = { allZero with pdoLen := 1, pdoOut := Vector.ofFn fun k : Fin 7 => pdoPort [e] k.val }
  | .pdoListDec => ∃ es, r = .pdos es ∧ o.pdoLen.toNat = es.length ∧
      o = { allZero with pdoLen := o.pdoLen, pdoOut := Vector.ofFn fun k : Fin 7 => pdoPort es k.val }
  | .pdoPackFixed | .pdoPackPps | .rdoPackFixed | .rdoPackPps =>
      ∃ w bs, r = .packed w bs ∧ o = { allZero with wordOut := w, bytesOut := bs }
  | .rdoEnc => ∃ x w bs, r = .request x w bs ∧ o = { allZero with rdoOut := rdoPort x, wordOut := w, bytesOut := bs }
  | .rdoDecFixed | .rdoDecPps => ∃ x, r = .rdo x ∧ o = { allZero with rdoOut := rdoPort x }
  | .addrLookup => ∃ row ∈ romRows, r = .addr row.2.1 ∧
      o = { allZero with addrOut := { shape := row.2.2.1, elemSize := row.2.1.elemSize, maxElems := row.2.1.maxElems,
                                      access := row.2.2.2, decCmd := row.2.1.decCmd } }

/-- The word in lane `k` of the payload the machine is given, in its byte order. -/
def lane (s : State) (k : Nat) : Word32 := laneWord s.cfg.wordOrder s.inp.pay k

end Sys2Proof.Claims

open Sys2Proof.Claims

/-! ### Commands: encoding, decoding, stepping -/

/-- Decode and encode agree, in both directions: no command word is lost and none has two readings (R70 to R73). -/
def Obligations.DecodeEncodeAgree : Prop :=
  ∀ (c : Byte) (i : Instr), decode c = .ok i ↔ encode i = c

/-- R73: the legal command words are exactly the 37 listed, each its own command; every other word ends in IllegalOp. -/
def Obligations.LegalCommandWordsAreExactlyTheseThirtySeven : Prop :=
  (∀ p ∈ legalWords, decode p.1 = .ok p.2) ∧ legalWords.length = 37 ∧
  ∀ c : Byte, c ∉ legalWords.map Prod.fst → (∀ i, decode c ≠ .ok i) ∧
    ∀ (s : State) (t : InPorts) (rest : List InPorts), s.pending = t :: rest → t.cmd = c →
      step s = .next (answered (presented s t rest) (.error .illegalOp))

/-- A few command words written out from R70's fields, SEL in 7:4 and OP in 3:0. -/
def Obligations.SpecCommandWordsDecode : Prop :=
  decode (0x0#4 ++ 0x0#4) = .ok .unitDecStatV ∧ decode (0xB#4 ++ 0x1#4) = .ok .unitEncRdoPpsV ∧
  decode (0x0#4 ++ 0x2#4) = .ok .statusDec ∧ decode (0x0#4 ++ 0x4#4) = .ok .eventEnc ∧
  decode (0x1#4 ++ 0x7#4) = .ok .pdoPackPps ∧ decode (0x0#4 ++ 0x8#4) = .ok .rdoEnc ∧
  decode (0x1#4 ++ 0x9#4) = .ok .rdoDecPps ∧ decode (0x0#4 ++ 0xB#4) = .ok .addrLookup ∧
  decode (0xC#4 ++ 0x0#4) = .error (.illegalSel 0x0 0xC) ∧ decode (0x0#4 ++ 0xC#4) = .error (.reservedOp 0xC)

/-- A step puts the host's next transaction on the ports and runs the command its word decodes to (R21, R70). The sequence
still to come is the model's own field (assumption log 9). -/
def Obligations.StepRunsTheDecodedCommand : Prop :=
  ∀ (s : State) (t : InPorts) (rest : List InPorts) (i : Instr), s.pending = t :: rest → decode t.cmd = .ok i →
    step s = exec i (presented s t rest)

/-- R84, R72: a reserved OP, or a SEL outside the operation's legal set, ends in IllegalOp: error code 7, no result, every
other output 0. -/
def Obligations.ReservedAndIllegalCommandsRaiseIllegalOp : Prop :=
  IllegalFrom 0x0 12 ∧ IllegalFrom 0x1 12 ∧ IllegalFrom 0x2 1 ∧ IllegalFrom 0x3 1 ∧ IllegalFrom 0x4 1 ∧
  IllegalFrom 0x5 1 ∧ IllegalFrom 0x6 1 ∧ IllegalFrom 0x7 2 ∧ IllegalFrom 0x8 1 ∧ IllegalFrom 0x9 2 ∧
  IllegalFrom 0xA 2 ∧ IllegalFrom 0xB 1 ∧ IllegalFrom 0xC 0 ∧ IllegalFrom 0xD 0 ∧ IllegalFrom 0xE 0 ∧
  IllegalFrom 0xF 0 ∧
  ∀ s : State, outPorts (answered s (.error .illegalOp)) = some { OutPorts.zero with err := 7 }

/-- The model's own choice (assumption log 2): where the host presents nothing, a step changes nothing. -/
def Obligations.StepWithNothingPendingChangesNothing : Prop :=
  ∀ s : State, s.pending = [] → step s = .next s

/-- How a command word is placed for the next step (assumption log 4): the step that follows runs its command on the
operands of the transaction it was placed in. -/
def Obligations.PlacedCommandWordRunsNext : Prop :=
  ∀ (s : State) (i : Instr),
    step (s.withFetchWord 8 (encode i).toNat) =
      exec i (presented s { s.pending.headD s.inp with cmd := encode i } s.pending.tail)

/-! ### The machine as a whole -/

/-- R12, R20, R26: every operation is total, and its answer is a function of the configuration and the transaction's
inputs alone. It never depends on what was answered before, and nothing but the observation changes. -/
def Obligations.AnswersDependOnInputsAlone : Prop :=
  ∃ ans : Instr → Config → InPorts → Answer, ∀ (i : Instr) (s : State), exec i s = .next (answered s (ans i s.cfg s.inp))

/-- R12, R21, R60: a host's whole run answers each transaction as it would alone, in the host's order. The sequence and the
observation are the model's own fields (assumption log 9). -/
def Obligations.HostRunAnswersEachTransactionInOrder : Prop :=
  ∃ ans : Config → InPorts → Answer, ∀ s : State,
    Host.Core.run core s.pending.length s =
      .next { cfg := s.cfg, inp := s.pending.getLast?.getD s.inp, pending := [],
              observed := s.observed ++ s.pending.map (ans s.cfg) }

/-- R26, R20: a step never writes the configuration; it takes at most one transaction and adds at most one answer, after
those already given (assumption logs 1, 2 and 9: where the configuration, the sequence and the observation stand). -/
def Obligations.StepFrame : Prop :=
  ∀ s t : State, step s = .next t →
    t.cfg = s.cfg ∧ t.pending = s.pending.tail ∧ t.inp = s.pending.headD s.inp ∧ s.observed <+: t.observed ∧
    t.observed.length + t.pending.length = s.observed.length + s.pending.length

/-- Every step keeps the observation (assumption log 9) sound: records scaled by the LUT, packed words well formed with their reserved bits
zero and their bytes in the build's order, lists of at most seven entries, object positions never 0. -/
def Obligations.EveryStepKeepsAnswersSound : Prop :=
  ∀ s t : State, Sound s → step s = .next t → Sound t

/-- The observation is sound at reset: it is empty (assumption log 9). -/
def Obligations.ResetIsSound : Prop := Sound State.reset

/-- R37, R240, R241: before the first transaction nothing is observed and the outputs have no value. That nothing is
pending, that the build is R7's default one and that the outputs are no field of State are the model's choices (assumption
logs 4, 1 and 6). -/
def Obligations.ResetLeavesNothingObserved : Prop :=
  State.reset.pending = [] ∧ State.reset.observed = [] ∧ outPorts State.reset = none ∧
  State.reset.cfg = { wordOrder := .le, ppsTag := .tag01, fixedRdoMax := .requested }

/-- R214: no transaction's answer depends on an earlier one, an error included: two machines of one build with the same
transactions to come, at least one, add the same answer, whatever each answered before and whatever stands on its ports. -/
def Obligations.EarlierTransactionsLeaveNothing : Prop :=
  ∀ s s' : State, s.cfg = s'.cfg → s.pending = s'.pending → s.pending ≠ [] →
    ∃ (t t' : State) (a : Answer), step s = .next t ∧ step s' = .next t' ∧
      t.observed = s.observed ++ [a] ∧ t'.observed = s'.observed ++ [a] ∧ t.pending = t'.pending

/-- R28: an input port that an operation does not read has no effect on its answer. -/
def Obligations.UnreadPortsHaveNoEffect : Prop :=
  ∀ (i : Instr) (s s' : State), s.cfg = s'.cfg → SamePortsRead i s.inp s'.inp →
    ∃ a : Answer, exec i s = .next (answered s a) ∧ exec i s' = .next (answered s' a)

/-- R210: the errors each operation can raise, and the position an UnrecognizedVariant records. -/
def Obligations.ErrorsEachOperationMayRaise : Prop :=
  ∀ (i : Instr) (s : State) (e : Err), exec i s = .next (answered s (.error e)) → mayRaise i e

/-- R210, R211: after an error, `err` holds its code, `err_idx` its position or 0, and every other output is 0. -/
def Obligations.ErrorDrivesItsCodeAlone : Prop :=
  ∀ (s : State) (e : Err), outPorts (answered s (.error e)) = some
    (match e with
     | .unrecognizedVariant idx => { OutPorts.zero with err := 1, errIdx := idx }
     | .valueOutOfRange => { OutPorts.zero with err := 2 }
     | .notExactStep => { OutPorts.zero with err := 3 }
     | .positionOutOfBounds => { OutPorts.zero with err := 4 }
     | .countOutOfRange => { OutPorts.zero with err := 5 }
     | .unknownAddress => { OutPorts.zero with err := 6 }
     | .illegalOp => { OutPorts.zero with err := 7 })

/-- R36: on success the outputs listed for the operation carry its result, and every other output, `err` included, is 0;
on an error `err` and `err_idx` are set as R210 and R29 say, and every other output is 0. Each command ends in one or the
other. -/
def Obligations.OnlyListedOutputsAreDriven : Prop :=
  ∀ (i : Instr) (s : State), ∃ (t : State) (o : OutPorts), exec i s = .next t ∧ outPorts t = some o ∧
    ((∃ r, t = answered s (.ok r) ∧ CarriesResult i r o) ∨
     (∃ e, t = answered s (.error e) ∧ o = { allZero with err := errNumber e, errIdx := errPosition e }))

/-- R29, R32, R36: the list outputs: `pdo_len` counts the entries, `pdo_out[k]` carries the k-th with its kind, the absent
variant and the entries beyond the list are 0. -/
def Obligations.PdoListWires : Prop :=
  ∀ (s : State) (es : List PdoRec), es.length ≤ 7 → ∃ o : OutPorts,
    outPorts (answered s (.ok (.pdos es))) = some o ∧ o.pdoLen.toNat = es.length ∧
    ∀ k : Fin 7, o.pdoOut[k] =
      match es[k.val]? with
      | some (.fixed r) => { kind := 0, fixed := r, pps := ⟨0, 0, 0, 0, 0, 0, 0⟩ }
      | some (.pps r) => { kind := 1, fixed := ⟨0, 0, 0, 0⟩, pps := r }
      | none => { kind := 0, fixed := ⟨0, 0, 0, 0⟩, pps := ⟨0, 0, 0, 0, 0, 0, 0⟩ }

/-- R33, R36: the request outputs, after RDO_DEC's answer and after RDO_ENC's: `rdo_out` carries the entry with its kind, 0 =
Fixed and 1 = Pps, the absent variant's fields are 0, and every output not listed is 0. -/
def Obligations.RdoWires : Prop :=
  ∀ (s : State) (x : RdoRec) (w : Word32) (bs : Vector Byte 4), ∃ q : RdoWire,
    (match x with
     | .fixed r => q.kind = 0 ∧ q.fixed = r ∧ q.pps = ⟨0, 0, 0, 0, 0⟩
     | .pps r => q.kind = 1 ∧ q.pps = r ∧ q.fixed = ⟨0, 0, 0, 0, 0⟩) ∧
    outPorts (answered s (.ok (.rdo x))) = some { allZero with rdoOut := q } ∧
    outPorts (answered s (.ok (.request x w bs))) = some { allZero with rdoOut := q, wordOut := w, bytesOut := bs }

/-- R112, R35: unit codes on the wire are 0 = mV, 1 = mA, 2 = °C, and code 3 is never produced. -/
def Obligations.UnitCodeThreeIsNeverDriven : Prop :=
  (∀ (s : State) (r : UnitRec), ∃ o : OutPorts, outPorts (answered s (.ok (.unit r))) = some o ∧
    o.unitOut.unit = (match r.unit with | .mV => 0 | .mA => 1 | .degC => 2)) ∧
  ∀ (i : Instr) (s t : State), exec i s = .next t → ∀ o : OutPorts, outPorts t = some o → o.unitOut.unit ≠ 3

/-! ### Byte order -/

/-- R51: how four bytes make a word and a word gives four bytes, in both orders, and that each undoes the other. -/
def Obligations.WordBytesAndByteOrder : Prop :=
  (∀ (pay : Vector Byte 28) (k : Fin 7),
    (laneWord .le pay k.val).toNat = (pay[4 * k.val]).toNat + 2 ^ 8 * (pay[4 * k.val + 1]).toNat
      + 2 ^ 16 * (pay[4 * k.val + 2]).toNat + 2 ^ 24 * (pay[4 * k.val + 3]).toNat ∧
    (laneWord .be pay k.val).toNat = (pay[4 * k.val + 3]).toNat + 2 ^ 8 * (pay[4 * k.val + 2]).toNat
      + 2 ^ 16 * (pay[4 * k.val + 1]).toNat + 2 ^ 24 * (pay[4 * k.val]).toNat) ∧
  (∀ (w : Word32) (j : Fin 4),
    ((bytes4 .le w)[j]).toNat = w.toNat / 2 ^ (8 * j.val) % 256 ∧
    ((bytes4 .be w)[j]).toNat = w.toNat / 2 ^ (8 * (3 - j.val)) % 256) ∧
  (∀ (o : WordOrder) (w : Word32),
    wordOfBytes o (bytes4 o w)[0] (bytes4 o w)[1] (bytes4 o w)[2] (bytes4 o w)[3] = w) ∧
  ∀ (o : WordOrder) (b0 b1 b2 b3 : Byte), bytes4 o (wordOfBytes o b0 b1 b2 b3) = #v[b0, b1, b2, b3]

/-! ### Unit scaling -/

/-- R110: the twelve entries of the LUT, with the raw and physical maxima they give. -/
def Obligations.LutHoldsTheTwelveEntries : Prop :=
  unitRows.length = 12 ∧ (∀ e : LutIndex, ∃ r ∈ unitRows, r.entry = e) ∧
  ∀ r ∈ unitRows, lut r.entry = { unit := r.unit, step := r.step, width := r.width } ∧
    r.rawMax = 2 ^ r.width - 1 ∧ r.physMax = r.rawMax * r.step

/-- R113, R115: `Scale` is an exact product on every value that fits its field, and never passes 51150. -/
def Obligations.ScaleIsAnExactProduct : Prop :=
  ∀ r ∈ unitRows, ∀ {n : Nat} (raw : BitVec n), raw.toNat < 2 ^ r.width →
    (scale r.entry raw).toNat = raw.toNat * r.step ∧ (scale r.entry raw).toNat ≤ 51150

/-- R115: `Scale` undoes a successful `Unscale`, and `Unscale` undoes `Scale` on every value that fits. -/
def Obligations.ScaleAndUnscaleAreInverse : Prop :=
  ∀ r ∈ unitRows,
    (∀ (p : Word16) (raw : Nat), unscale r.entry p = .ok raw → scale r.entry (BitVec.ofNat 16 raw) = p) ∧
    ∀ raw : Word16, raw.toNat < 2 ^ r.width → unscale r.entry (scale r.entry raw) = .ok raw.toNat

/-- R116: UNIT_DEC of each of the twelve fields: the value, its product by the step and the unit, or ValueOutOfRange when it
does not fit the field; IllegalOp for SEL 12 to 15. -/
def Obligations.UnitDecScalesTheRawValue : Prop :=
  IllegalFrom 0x0 12 ∧
  ∀ r ∈ unitRows, encode r.dec = BitVec.ofNat 8 (16 * r.index) ∧ ∀ s : State,
    (s.inp.val.toNat < 2 ^ r.width → ∃ phys : Word16, phys.toNat = s.inp.val.toNat * r.step ∧
      exec r.dec s = .next (answered s (.ok (.unit { raw := s.inp.val, phys := phys, unit := r.unit })))) ∧
    (2 ^ r.width ≤ s.inp.val.toNat → exec r.dec s = .next (answered s (.error .valueOutOfRange)))

/-- R117: UNIT_ENC of each of the twelve fields: the exact quotient, NotExactStep when there is none, ValueOutOfRange when
it does not fit, the step first; IllegalOp for SEL 12 to 15. -/
def Obligations.UnitEncDividesExactlyOrFails : Prop :=
  IllegalFrom 0x1 12 ∧
  ∀ r ∈ unitRows, encode r.enc = BitVec.ofNat 8 (16 * r.index + 1) ∧ ∀ s : State,
    (∀ raw : Word16, raw.toNat < 2 ^ r.width → s.inp.val.toNat = raw.toNat * r.step →
      exec r.enc s = .next (answered s (.ok (.unit { raw := raw, phys := s.inp.val, unit := r.unit })))) ∧
    (s.inp.val.toNat % r.step ≠ 0 → exec r.enc s = .next (answered s (.error .notExactStep))) ∧
    (s.inp.val.toNat % r.step = 0 → 2 ^ r.width * r.step ≤ s.inp.val.toNat →
      exec r.enc s = .next (answered s (.error .valueOutOfRange)))

/-! ### Status and event flags -/

/-- R130: STATUS_DEC decodes the status payload bit by bit, bit 3 ignored, with the readings times 80, 24 and 1. -/
def Obligations.StatusDecReadsFlagsAndReadings : Prop :=
  IllegalFrom 0x2 1 ∧ encode .statusDec = 0x02 ∧
  ∀ s : State, ∃ r : StatusRec, exec .statusDec s = .next (answered s (.ok (.status r))) ∧
    r.ready = s.inp.pay[0].toNat.testBit 0 ∧ r.success = s.inp.pay[0].toNat.testBit 1 ∧
    r.newCaps = s.inp.pay[0].toNat.testBit 2 ∧ r.ovp = s.inp.pay[0].toNat.testBit 4 ∧
    r.ocp = s.inp.pay[0].toNat.testBit 5 ∧ r.otp = s.inp.pay[0].toNat.testBit 6 ∧
    r.dataRole = s.inp.pay[0].toNat.testBit 7 ∧
    r.vRaw = s.inp.pay[1] ∧ r.iRaw = s.inp.pay[2] ∧ r.tRaw = s.inp.pay[3] ∧
    r.vMV.toNat = s.inp.pay[1].toNat * 80 ∧ r.iMA.toNat = s.inp.pay[2].toNat * 24 ∧ r.tC.toNat = s.inp.pay[3].toNat

/-- R132: the seven status flags are independent: every combination is the decoding of some status byte. -/
def Obligations.StatusFlagsAreIndependent : Prop :=
  ∀ (f0 f1 f2 f4 f5 f6 f7 : Bool), ∃ b : Byte, ∀ s : State, s.inp.pay[0] = b →
    ∃ r : StatusRec, exec .statusDec s = .next (answered s (.ok (.status r))) ∧
      r.ready = f0 ∧ r.success = f1 ∧ r.newCaps = f2 ∧ r.ovp = f4 ∧ r.ocp = f5 ∧ r.otp = f6 ∧ r.dataRole = f7

/-- R133: a reading gives the same physical value as a status byte and as a single-byte register. -/
def Obligations.StatusReadingsAgreeWithUnitDec : Prop :=
  ∀ (s v i t : State) (r : StatusRec), exec .statusDec s = .next (answered s (.ok (.status r))) →
    v.inp.val = r.vRaw.setWidth 16 → i.inp.val = r.iRaw.setWidth 16 → t.inp.val = r.tRaw.setWidth 16 →
    exec .unitDecStatV v = .next (answered v (.ok (.unit ⟨r.vRaw.setWidth 16, r.vMV, .mV⟩))) ∧
    exec .unitDecStatI i = .next (answered i (.ok (.unit ⟨r.iRaw.setWidth 16, r.iMA, .mA⟩))) ∧
    exec .unitDecStatT t = .next (answered t (.ok (.unit ⟨r.tRaw.setWidth 16, r.tC, .degC⟩)))

/-- R140: EVENT_DEC decodes the negotiation byte and the protection byte, bits 7:4 of each ignored. -/
def Obligations.EventDecReadsEightFlags : Prop :=
  IllegalFrom 0x3 1 ∧ encode .eventDec = 0x03 ∧
  ∀ s : State, ∃ r : EventRec, exec .eventDec s = .next (answered s (.ok (.events r))) ∧
    r.negNewSuccess = s.inp.pay[0].toNat.testBit 0 ∧ r.negNewFail = s.inp.pay[0].toNat.testBit 1 ∧
    r.negSuccess = s.inp.pay[0].toNat.testBit 2 ∧ r.negFail = s.inp.pay[0].toNat.testBit 3 ∧
    r.protOv = s.inp.pay[1].toNat.testBit 0 ∧ r.protOc = s.inp.pay[1].toNat.testBit 1 ∧
    r.protOt = s.inp.pay[1].toNat.testBit 2 ∧ r.protDrChange = s.inp.pay[1].toNat.testBit 3

/-- R141: EVENT_ENC writes each flag at its bit, bits 7:4 of both bytes and the other two output bytes 0. -/
def Obligations.EventEncWritesTheMaskBytes : Prop :=
  IllegalFrom 0x4 1 ∧ encode .eventEnc = 0x04 ∧
  ∀ s : State, ∃ b0 b1 : Byte, exec .eventEnc s = .next (answered s (.ok (.eventBytes b0 b1))) ∧
    b0.toNat = s.inp.evIn.negNewSuccess.toNat + 2 * s.inp.evIn.negNewFail.toNat
      + 4 * s.inp.evIn.negSuccess.toNat + 8 * s.inp.evIn.negFail.toNat ∧
    b1.toNat = s.inp.evIn.protOv.toNat + 2 * s.inp.evIn.protOc.toNat
      + 4 * s.inp.evIn.protOt.toNat + 8 * s.inp.evIn.protDrChange.toNat ∧
    ∃ o : OutPorts, outPorts (answered s (.ok (.eventBytes b0 b1))) = some o ∧ o.bytesOut = #v[b0, b1, 0, 0]

/-- R142: EVENT_DEC of EVENT_ENC's bytes is the record given; EVENT_ENC of a decoded payload clears bits 7:4. -/
def Obligations.EventCodecRoundTrips : Prop :=
  (∀ (s t : State) (b0 b1 : Byte), exec .eventEnc s = .next (answered s (.ok (.eventBytes b0 b1))) →
    t.inp.pay[0] = b0 → t.inp.pay[1] = b1 →
    exec .eventDec t = .next (answered t (.ok (.events s.inp.evIn)))) ∧
  ∀ (s t : State) (e : EventRec), exec .eventDec s = .next (answered s (.ok (.events e))) → t.inp.evIn = e →
    exec .eventEnc t = .next (answered t (.ok (.eventBytes (s.inp.pay[0] &&& 0x0F) (s.inp.pay[1] &&& 0x0F))))

/-! ### PDO demultiplexer -/

/-- R150 with R76 to R78: the tag selects one layout, whose fields are these bits of the word, scaled; any other tag gives
no record. -/
def Obligations.PdoDecodeUnpacksTheTaggedLayout : Prop :=
  ∀ (c : Config) (w : Word32),
    (w.toNat / 2 ^ 30 = 0 → ∃ r : FixedPdo, pdoDecode c w = some (.fixed r) ∧
      r.maxIRaw.toNat = w.toNat % 2 ^ 10 ∧ r.vRaw.toNat = w.toNat / 2 ^ 10 % 2 ^ 10 ∧
      r.maxIMA.toNat = r.maxIRaw.toNat * 10 ∧ r.vMV.toNat = r.vRaw.toNat * 50) ∧
    (w.toNat / 2 ^ 30 = (ppsTagBits c.ppsTag).toNat → ∃ r : PpsPdo, pdoDecode c w = some (.pps r) ∧
      r.maxIRaw.toNat = w.toNat % 2 ^ 7 ∧ r.minVRaw.toNat = w.toNat / 2 ^ 8 % 2 ^ 8 ∧
      r.maxVRaw.toNat = w.toNat / 2 ^ 17 % 2 ^ 8 ∧ r.apdo.toNat = w.toNat / 2 ^ 28 % 2 ^ 2 ∧
      r.maxIMA.toNat = r.maxIRaw.toNat * 50 ∧ r.minVMV.toNat = r.minVRaw.toNat * 100 ∧
      r.maxVMV.toNat = r.maxVRaw.toNat * 100) ∧
    (w.toNat / 2 ^ 30 ≠ 0 → w.toNat / 2 ^ 30 ≠ (ppsTagBits c.ppsTag).toNat → pdoDecode c w = none)

/-- R76: the discriminator table of each build: 0b00 is Fixed, `PPS_TAG` is PPS, and each of the two others is no layout. -/
def Obligations.PdoTagTable : Prop :=
  ppsTagBits .tag01 = 0b01 ∧ ppsTagBits .tag10 = 0b10 ∧ ppsTagBits .tag11 = 0b11 ∧
  ∀ (c : Config) (w : Word32),
    ((∃ r, pdoDecode c w = some (.fixed r)) ↔ w.extractLsb 31 30 = 0b00#2) ∧
    ((∃ r, pdoDecode c w = some (.pps r)) ↔ w.extractLsb 31 30 = ppsTagBits c.ppsTag) ∧
    (pdoDecode c w = none ↔ w.extractLsb 31 30 ≠ 0b00#2 ∧ w.extractLsb 31 30 ≠ ppsTagBits c.ppsTag)

/-- R151: PDO_DEC gives the one entry of lane 0, or UnrecognizedVariant with `err_idx` 0. -/
def Obligations.PdoDecDecodesLaneZero : Prop :=
  IllegalFrom 0x5 1 ∧ encode .pdoDec = 0x05 ∧
  ∀ s : State,
    (∀ e : PdoRec, pdoDecode s.cfg (lane s 0) = some e →
      exec .pdoDec s = .next (answered s (.ok (.pdos [e])))) ∧
    (pdoDecode s.cfg (lane s 0) = none → exec .pdoDec s = .next (answered s (.error (.unrecognizedVariant 0))))

/-- PDO_DEC completes on every word whose tag is recognised, in terms of the word's own top bits (R151, R76). -/
def Obligations.PdoDecCompletesOnRecognisedTags : Prop :=
  ∀ s : State, (lane s 0).extractLsb 31 30 = 0b00#2 ∨ (lane s 0).extractLsb 31 30 = ppsTagBits s.cfg.ppsTag →
    ∃ e : PdoRec, exec .pdoDec s = .next (answered s (.ok (.pdos [e])))

/-- R152: PDO_LIST_DEC gives the first `cnt` lanes' entries in order; or CountOutOfRange; or UnrecognizedVariant with the
lowest position whose tag is not recognised, and no entry. -/
def Obligations.PdoListDecDecodesTheFirstCntLanes : Prop :=
  IllegalFrom 0x6 1 ∧ encode .pdoListDec = 0x06 ∧
  ∀ s : State,
    (s.inp.cnt.toNat ≤ 7 → (∀ k < s.inp.cnt.toNat, pdoDecode s.cfg (lane s k) ≠ none) →
      ∃ es : List PdoRec, exec .pdoListDec s = .next (answered s (.ok (.pdos es))) ∧
        es.length = s.inp.cnt.toNat ∧ ∀ k < s.inp.cnt.toNat, es[k]? = pdoDecode s.cfg (lane s k)) ∧
    (7 < s.inp.cnt.toNat → exec .pdoListDec s = .next (answered s (.error .countOutOfRange))) ∧
    (∀ k < s.inp.cnt.toNat, s.inp.cnt.toNat ≤ 7 → pdoDecode s.cfg (lane s k) = none →
      (∀ j < k, pdoDecode s.cfg (lane s j) ≠ none) →
      exec .pdoListDec s = .next (answered s (.error (.unrecognizedVariant (BitVec.ofNat 3 (k + 1))))))

/-- R153: PDO_PACK.FIXED and PDO_PACK.PPS place each field at its bits under the tag, or refuse a field that does not fit
with ValueOutOfRange. -/
def Obligations.PdoPackPlacesFieldsOrRefuses : Prop :=
  IllegalFrom 0x7 2 ∧ encode .pdoPackFixed = 0x07 ∧ encode .pdoPackPps = 0x17 ∧
  ∀ s : State,
    (s.inp.fa.toNat < 2 ^ 10 → s.inp.fb.toNat < 2 ^ 10 → ∃ w : Word32,
      w.toNat = s.inp.fb.toNat * 2 ^ 10 + s.inp.fa.toNat ∧
      exec .pdoPackFixed s = .next (answered s (.ok (.packed w (bytes4 s.cfg.wordOrder w))))) ∧
    (2 ^ 10 ≤ s.inp.fa.toNat ∨ 2 ^ 10 ≤ s.inp.fb.toNat →
      exec .pdoPackFixed s = .next (answered s (.error .valueOutOfRange))) ∧
    (s.inp.fa.toNat < 2 ^ 7 → s.inp.fb.toNat < 2 ^ 8 → s.inp.fc.toNat < 2 ^ 8 → s.inp.fd.toNat < 2 ^ 2 → ∃ w : Word32,
      w.toNat = (ppsTagBits s.cfg.ppsTag).toNat * 2 ^ 30 + s.inp.fd.toNat * 2 ^ 28 + s.inp.fc.toNat * 2 ^ 17
        + s.inp.fb.toNat * 2 ^ 8 + s.inp.fa.toNat ∧
      exec .pdoPackPps s = .next (answered s (.ok (.packed w (bytes4 s.cfg.wordOrder w))))) ∧
    (2 ^ 7 ≤ s.inp.fa.toNat ∨ 2 ^ 8 ≤ s.inp.fb.toNat ∨ 2 ^ 8 ≤ s.inp.fc.toNat ∨ 2 ^ 2 ≤ s.inp.fd.toNat →
      exec .pdoPackPps s = .next (answered s (.error .valueOutOfRange)))

/-- R154: packing a decoded PDO word gives the word with its reserved bits cleared, which is the word itself where it is
well formed; decoding a packed record gives the record back; under PPS_TAG = 0b01 the tags 0b10 and 0b11 decode to
nothing. -/
def Obligations.PdoRoundTrips : Prop :=
  (∀ (c : Config) (w : Word32), WellFormedPdo c w → ∃ r, pdoDecode c w = some r ∧ pdoPack c r = w) ∧
  (∀ (c : Config) (w : Word32) (r : PdoRec), pdoDecode c w = some r →
    pdoPack c r = w &&& ~~~(match r with | .fixed _ => 0x3FF00000#32 | .pps _ => 0x0E010080#32)) ∧
  (∀ (c : Config) (r : PdoRec), PdoScaled r → pdoDecode c (pdoPack c r) = some r) ∧
  ∀ (c : Config) (w : Word32), c.ppsTag = .tag01 → 2 ≤ (w.extractLsb 31 30).toNat → pdoDecode c w = none

/-- R155: nothing but the tag is checked: PDO_PACK.PPS then PDO_DEC carries every value of the four PPS fields through, the
sub-type uninterpreted and a minimum voltage above the maximum included. -/
def Obligations.PpsFieldsAreCarriedUnchecked : Prop :=
  ∀ (s t : State) (i : BitVec 7) (lo hi : BitVec 8) (a : BitVec 2) (w : Word32) (bs : Vector Byte 4),
    s.cfg = t.cfg → s.inp.fa = i.setWidth 16 → s.inp.fb = lo.setWidth 16 → s.inp.fc = hi.setWidth 16 →
    s.inp.fd = a.setWidth 16 → exec .pdoPackPps s = .next (answered s (.ok (.packed w bs))) →
    (∀ j : Fin 4, t.inp.pay[j.val] = bs[j.val]) →
    ∃ r : PpsPdo, exec .pdoDec t = .next (answered t (.ok (.pdos [.pps r]))) ∧
      r.maxIRaw = i ∧ r.minVRaw = lo ∧ r.maxVRaw = hi ∧ r.apdo = a

/-! ### RDO encoder -/

/-- R170 with R79, R80: the fields of an RDO word in each variant, scaled. -/
def Obligations.RdoDecodeUnpacksTheLayout : Prop :=
  ∀ w : Word32,
    (∃ r : FixedRdo, rdoDecode .fixed w = .fixed r ∧ r.maxIRaw.toNat = w.toNat % 2 ^ 10 ∧
      r.opIRaw.toNat = w.toNat / 2 ^ 10 % 2 ^ 10 ∧ r.objPos.toNat = w.toNat / 2 ^ 28 % 2 ^ 3 ∧
      r.maxIMA.toNat = r.maxIRaw.toNat * 10 ∧ r.opIMA.toNat = r.opIRaw.toNat * 10) ∧
    (∃ r : PpsRdo, rdoDecode .pps w = .pps r ∧ r.opIRaw.toNat = w.toNat % 2 ^ 7 ∧
      r.vRaw.toNat = w.toNat / 2 ^ 9 % 2 ^ 11 ∧ r.objPos.toNat = w.toNat / 2 ^ 28 % 2 ^ 3 ∧
      r.opIMA.toNat = r.opIRaw.toNat * 50 ∧ r.vMV.toNat = r.vRaw.toNat * 20)

/-- R171: where `RdoPack` puts each field; every other bit is 0. -/
def Obligations.RdoPackPlacesTheFields : Prop :=
  (∀ (m o : BitVec 10) (p : BitVec 3),
    rdoPackFixed m o p = p.setWidth 32 <<< 28 ||| o.setWidth 32 <<< 10 ||| m.setWidth 32) ∧
  ∀ (o : BitVec 7) (v : BitVec 11) (p : BitVec 3),
    rdoPackPps o v p = p.setWidth 32 <<< 28 ||| v.setWidth 32 <<< 9 ||| o.setWidth 32

/-- RDO_ENC against a Fixed entry builds the request: the operating current in 10 mA, the max field by `FIXED_RDO_MAX`, the
position, packed and in bytes (R172). A request equal to the maximum is accepted. -/
def Obligations.RdoEncBuildsAFixedRequest : Prop :=
  ∀ (s : State) (e : FixedPdo) (o : Nat),
    s.inp.cnt.toNat ≤ 7 → 1 ≤ s.inp.pos.toNat → s.inp.pos.toNat ≤ s.inp.cnt.toNat →
    pdoDecode s.cfg (lane s (s.inp.pos.toNat - 1)) = some (.fixed e) →
    s.inp.reqI.toNat = 10 * o → o ≤ e.maxIRaw.toNat →
    ∃ (r : FixedRdo) (w : Word32), exec .rdoEnc s =
        .next (answered s (.ok (.request (.fixed r) w (bytes4 s.cfg.wordOrder w)))) ∧
      r.opIRaw.toNat = o ∧ r.opIMA = s.inp.reqI ∧ r.objPos.toNat = s.inp.pos.toNat ∧
      r.maxIRaw.toNat = (match s.cfg.fixedRdoMax with | .requested => o | .pdoMax => e.maxIRaw.toNat) ∧
      r.maxIMA.toNat = r.maxIRaw.toNat * 10 ∧
      w.toNat = s.inp.pos.toNat * 2 ^ 28 + o * 2 ^ 10 + r.maxIRaw.toNat

/-- RDO_ENC against a PPS entry builds the request: the operating current in 50 mA, the voltage in 20 mV within the entry's
band, the position, packed and in bytes (R172). -/
def Obligations.RdoEncBuildsAPpsRequest : Prop :=
  ∀ (s : State) (e : PpsPdo) (o v : Nat),
    s.inp.cnt.toNat ≤ 7 → 1 ≤ s.inp.pos.toNat → s.inp.pos.toNat ≤ s.inp.cnt.toNat →
    pdoDecode s.cfg (lane s (s.inp.pos.toNat - 1)) = some (.pps e) →
    s.inp.reqI.toNat = 50 * o → s.inp.reqV.toNat = 20 * v → o ≤ e.maxIRaw.toNat →
    e.minVRaw.toNat * 100 ≤ 20 * v → 20 * v ≤ e.maxVRaw.toNat * 100 →
    ∃ (r : PpsRdo) (w : Word32), exec .rdoEnc s =
        .next (answered s (.ok (.request (.pps r) w (bytes4 s.cfg.wordOrder w)))) ∧
      r.opIRaw.toNat = o ∧ r.vRaw.toNat = v ∧ r.opIMA = s.inp.reqI ∧ r.vMV = s.inp.reqV ∧
      r.objPos.toNat = s.inp.pos.toNat ∧ w.toNat = s.inp.pos.toNat * 2 ^ 28 + v * 2 ^ 9 + o

/-- RDO_ENC's errors, in R212's order: the count, the position, the tag of the selected lane, the steps (current, then
voltage), the limits (current, then voltage). A Fixed request reads no voltage (R172, R212). -/
def Obligations.RdoEncRaisesTheFirstError : Prop :=
  ∀ s : State,
    (7 < s.inp.cnt.toNat → exec .rdoEnc s = .next (answered s (.error .countOutOfRange))) ∧
    (s.inp.cnt.toNat ≤ 7 →
      (s.inp.pos.toNat = 0 ∨ s.inp.cnt.toNat < s.inp.pos.toNat →
        exec .rdoEnc s = .next (answered s (.error .positionOutOfBounds))) ∧
      (1 ≤ s.inp.pos.toNat → s.inp.pos.toNat ≤ s.inp.cnt.toNat →
        (pdoDecode s.cfg (lane s (s.inp.pos.toNat - 1)) = none →
          exec .rdoEnc s = .next (answered s (.error (.unrecognizedVariant (s.inp.pos.setWidth 3))))) ∧
        (∀ e : FixedPdo, pdoDecode s.cfg (lane s (s.inp.pos.toNat - 1)) = some (.fixed e) →
          (s.inp.reqI.toNat % 10 ≠ 0 → exec .rdoEnc s = .next (answered s (.error .notExactStep))) ∧
          (s.inp.reqI.toNat % 10 = 0 → e.maxIRaw.toNat * 10 < s.inp.reqI.toNat →
            exec .rdoEnc s = .next (answered s (.error .valueOutOfRange)))) ∧
        (∀ e : PpsPdo, pdoDecode s.cfg (lane s (s.inp.pos.toNat - 1)) = some (.pps e) →
          (s.inp.reqI.toNat % 50 ≠ 0 ∨ s.inp.reqV.toNat % 20 ≠ 0 →
            exec .rdoEnc s = .next (answered s (.error .notExactStep))) ∧
          (s.inp.reqI.toNat % 50 = 0 → s.inp.reqV.toNat % 20 = 0 →
            e.maxIRaw.toNat * 50 < s.inp.reqI.toNat ∨ s.inp.reqV.toNat < e.minVRaw.toNat * 100 ∨
              e.maxVRaw.toNat * 100 < s.inp.reqV.toNat →
            exec .rdoEnc s = .next (answered s (.error .valueOutOfRange))))))

/-- R176 with R172, R175: RDO_ENC never clamps, rounds or substitutes. Whatever request it gives is of the variant of the
entry at `pos`, names that position, holds exactly the requested current and, for PPS, the requested voltage, and lies
within the entry's limits; the record is the decoding of the word and the bytes are the word's. -/
def Obligations.RdoEncNeverClampsOrRounds : Prop :=
  ∀ (s : State) (r : RdoRec) (w : Word32) (bs : Vector Byte 4),
    exec .rdoEnc s = .next (answered s (.ok (.request r w bs))) →
    r = rdoDecode (rdoVariant r) w ∧ bs = bytes4 s.cfg.wordOrder w ∧ (rdoObjPos r).toNat = s.inp.pos.toNat ∧
    1 ≤ s.inp.pos.toNat ∧ s.inp.pos.toNat ≤ s.inp.cnt.toNat ∧ s.inp.cnt.toNat ≤ 7 ∧
    match r, pdoDecode s.cfg (lane s (s.inp.pos.toNat - 1)) with
    | .fixed x, some (.fixed e) => x.opIMA = s.inp.reqI ∧ x.opIRaw.toNat ≤ x.maxIRaw.toNat ∧
        x.maxIRaw.toNat ≤ e.maxIRaw.toNat
    | .pps x, some (.pps e) => x.opIMA = s.inp.reqI ∧ x.vMV = s.inp.reqV ∧ x.opIRaw.toNat ≤ e.maxIRaw.toNat ∧
        e.minVMV.toNat ≤ x.vMV.toNat ∧ x.vMV.toNat ≤ e.maxVMV.toNat
    | _, _ => False

/-- R173: RDO_DEC decodes lane 0 in the variant its command names, and raises no data error. -/
def Obligations.RdoDecDecodesLaneZero : Prop :=
  IllegalFrom 0x9 2 ∧ encode .rdoDecFixed = 0x09 ∧ encode .rdoDecPps = 0x19 ∧
  ∀ s : State, exec .rdoDecFixed s = .next (answered s (.ok (.rdo (rdoDecode .fixed (lane s 0))))) ∧
    exec .rdoDecPps s = .next (answered s (.ok (.rdo (rdoDecode .pps (lane s 0)))))

/-- R174: RDO_PACK.FIXED and RDO_PACK.PPS place each field at its bits, or refuse a field that does not fit with
ValueOutOfRange. -/
def Obligations.RdoPackPlacesFieldsOrRefuses : Prop :=
  IllegalFrom 0xA 2 ∧ encode .rdoPackFixed = 0x0A ∧ encode .rdoPackPps = 0x1A ∧
  ∀ s : State,
    (s.inp.fa.toNat < 2 ^ 10 → s.inp.fb.toNat < 2 ^ 10 → s.inp.fc.toNat < 2 ^ 3 → ∃ w : Word32,
      w.toNat = s.inp.fc.toNat * 2 ^ 28 + s.inp.fb.toNat * 2 ^ 10 + s.inp.fa.toNat ∧
      exec .rdoPackFixed s = .next (answered s (.ok (.packed w (bytes4 s.cfg.wordOrder w))))) ∧
    (2 ^ 10 ≤ s.inp.fa.toNat ∨ 2 ^ 10 ≤ s.inp.fb.toNat ∨ 2 ^ 3 ≤ s.inp.fc.toNat →
      exec .rdoPackFixed s = .next (answered s (.error .valueOutOfRange))) ∧
    (s.inp.fa.toNat < 2 ^ 7 → s.inp.fb.toNat < 2 ^ 11 → s.inp.fc.toNat < 2 ^ 3 → ∃ w : Word32,
      w.toNat = s.inp.fc.toNat * 2 ^ 28 + s.inp.fb.toNat * 2 ^ 9 + s.inp.fa.toNat ∧
      exec .rdoPackPps s = .next (answered s (.ok (.packed w (bytes4 s.cfg.wordOrder w))))) ∧
    (2 ^ 7 ≤ s.inp.fa.toNat ∨ 2 ^ 11 ≤ s.inp.fb.toNat ∨ 2 ^ 3 ≤ s.inp.fc.toNat →
      exec .rdoPackPps s = .next (answered s (.error .valueOutOfRange)))

/-- R175's first three laws: packing a decoded RDO word gives the word with its reserved bits cleared, which is the word
itself where it is well formed; decoding a packed record gives the record back. -/
def Obligations.RdoRoundTrips : Prop :=
  (∀ (v : Variant) (w : Word32), WellFormedRdo v w → rdoPack (rdoDecode v w) = w) ∧
  (∀ (v : Variant) (w : Word32),
    rdoPack (rdoDecode v w) = w &&& ~~~(match v with | .fixed => 0x8FF00000#32 | .pps => 0x8FF00180#32)) ∧
  ∀ r : RdoRec, RdoScaled r → rdoDecode (rdoVariant r) (rdoPack r) = r

/-- R82: no decode depends on a reserved bit, and every encoded word or byte has 0 in every reserved bit. -/
def Obligations.ReservedBitsIgnoredOnDecodeZeroOnEncode : Prop :=
  (∀ (c : Config) (w : Word32), w.extractLsb 31 30 = 0b00#2 → pdoDecode c (w ^^^ (w &&& 0x3FF00000)) = pdoDecode c w) ∧
  (∀ (c : Config) (w : Word32), w.extractLsb 31 30 = ppsTagBits c.ppsTag →
    pdoDecode c (w ^^^ (w &&& 0x0E010080)) = pdoDecode c w) ∧
  (∀ w : Word32, rdoDecode .fixed (w ^^^ (w &&& 0x8FF00000)) = rdoDecode .fixed w) ∧
  (∀ w : Word32, rdoDecode .pps (w ^^^ (w &&& 0x8FF00180)) = rdoDecode .pps w) ∧
  (∀ s t : State, s.inp.pay[0] &&& 0xF7 = t.inp.pay[0] &&& 0xF7 → s.inp.pay[1] = t.inp.pay[1] →
    s.inp.pay[2] = t.inp.pay[2] → s.inp.pay[3] = t.inp.pay[3] →
    ∃ r, exec .statusDec s = .next (answered s r) ∧ exec .statusDec t = .next (answered t r)) ∧
  (∀ s t : State, s.inp.pay[0] &&& 0x0F = t.inp.pay[0] &&& 0x0F → s.inp.pay[1] &&& 0x0F = t.inp.pay[1] &&& 0x0F →
    ∃ r, exec .eventDec s = .next (answered s r) ∧ exec .eventDec t = .next (answered t r)) ∧
  ∀ s : State,
    (∀ b0 b1, exec .eventEnc s = .next (answered s (.ok (.eventBytes b0 b1))) → b0 &&& 0xF0 = 0 ∧ b1 &&& 0xF0 = 0) ∧
    (∀ w bs, exec .pdoPackFixed s = .next (answered s (.ok (.packed w bs))) → w &&& 0x3FF00000 = 0) ∧
    (∀ w bs, exec .pdoPackPps s = .next (answered s (.ok (.packed w bs))) → w &&& 0x0E010080 = 0) ∧
    (∀ w bs, exec .rdoPackFixed s = .next (answered s (.ok (.packed w bs))) → w &&& 0x8FF00000 = 0) ∧
    (∀ w bs, exec .rdoPackPps s = .next (answered s (.ok (.packed w bs))) → w &&& 0x8FF00180 = 0) ∧
    (∀ r w bs, exec .rdoEnc s = .next (answered s (.ok (.request r w bs))) →
      w &&& (match r with | .fixed _ => 0x8FF00000#32 | .pps _ => 0x8FF00180#32) = 0)

/-! ### Register address ROM -/

/-- R201 with R200: ADDR_LOOKUP gives the entry of each of the eight addresses, and UnknownAddress for every other value. -/
def Obligations.AddrLookupFindsTheEightRegisters : Prop :=
  IllegalFrom 0xB 1 ∧ encode .addrLookup = 0x0B ∧ romRows.length = 8 ∧
  (∀ row ∈ romRows, ∀ s : State, s.inp.val.toNat = row.1 →
    exec .addrLookup s = .next (answered s (.ok (.addr row.2.1)))) ∧
  (∀ s : State, s.inp.val.toNat ∉ romRows.map Prod.fst →
    exec .addrLookup s = .next (answered s (.error .unknownAddress)))

/-- R200: the eight entries of the ROM and no other, and every column of each, with its codes, on the `addr_out` port. -/
def Obligations.AddrLookupDrivesTheRomCodes : Prop :=
  (∀ a : Byte, (addrRom a).isSome = true ↔ a.toNat ∈ romRows.map Prod.fst) ∧
  ∀ row ∈ romRows, ∀ s : State, s.inp.val.toNat = row.1 → ∃ (t : State) (o : OutPorts),
    exec .addrLookup s = .next t ∧ outPorts t = some o ∧
    o.addrOut = { shape := row.2.2.1, elemSize := row.2.1.elemSize, maxElems := row.2.1.maxElems,
                  access := row.2.2.2, decCmd := row.2.1.decCmd }

/-- R202: every register but the count, whose byte is used as it is, names a command that decodes its payload. -/
def Obligations.EveryRegisterHasItsDecoder : Prop :=
  (∀ p ∈ [((0x00 : Byte), Instr.pdoListDec), (0x1D, .statusDec), (0x1E, .eventDec), (0x20, .unitDecStatV),
      (0x21, .unitDecStatI), (0x22, .unitDecStatT), (0x30, .rdoDecFixed)],
    ∃ r : AddrRec, addrRom p.1 = some r ∧ decode r.decCmd = .ok p.2) ∧
  ∀ (a : Byte) (r : AddrRec), addrRom a = some r → ((∀ i, decode r.decCmd ≠ .ok i) ↔ a = 0x1C)

/-- R86: each pseudo-instruction is the UNIT_DEC command that decodes its register. -/
def Obligations.PseudoInstructionsExpand : Prop :=
  PseudoInstr.expand .voltDec = .unitDecStatV ∧ PseudoInstr.expand .currDec = .unitDecStatI ∧
  PseudoInstr.expand .tempDec = .unitDecStatT ∧
  ∀ p ∈ [(PseudoInstr.voltDec, (0x00 : Byte), (0x20 : Byte)), (.currDec, 0x10, 0x21), (.tempDec, 0x20, 0x22)],
    encode (PseudoInstr.expand p.1) = p.2.1 ∧ ∃ r : AddrRec, addrRom p.2.2 = some r ∧ r.decCmd = p.2.1
end

