-- ==== Sys2Proof/Laws/State.lean ====
section
/-! SUPPORT. One lemma per field per update of the state: no later proof unfolds a record update. -/

namespace Sys2Proof.Machine

variable (s : State) (a : Answer) (t : InPorts) (ts : List InPorts) (n w : Nat)

@[simp] theorem record_cfg : (s.record a).cfg = s.cfg := rfl
@[simp] theorem record_inp : (s.record a).inp = s.inp := rfl
@[simp] theorem record_pending : (s.record a).pending = s.pending := rfl
@[simp] theorem record_observed : (s.record a).observed = s.observed ++ [a] := rfl

@[simp] theorem present_cfg : (s.present t ts).cfg = s.cfg := rfl
@[simp] theorem present_inp : (s.present t ts).inp = t := rfl
@[simp] theorem present_pending : (s.present t ts).pending = ts := rfl
@[simp] theorem present_observed : (s.present t ts).observed = s.observed := rfl

@[simp] theorem load_cfg : (s.load ts).cfg = s.cfg := rfl
@[simp] theorem load_inp : (s.load ts).inp = s.inp := rfl
@[simp] theorem load_pending : (s.load ts).pending = ts := rfl
@[simp] theorem load_observed : (s.load ts).observed = s.observed := rfl

@[simp] theorem withFetchWord_cfg : (s.withFetchWord n w).cfg = s.cfg := rfl
@[simp] theorem withFetchWord_inp : (s.withFetchWord n w).inp = s.inp := rfl
@[simp] theorem withFetchWord_pending_tail : (s.withFetchWord n w).pending.tail = s.pending.tail := rfl
@[simp] theorem withFetchWord_observed : (s.withFetchWord n w).observed = s.observed := rfl

end Sys2Proof.Machine
end

