-- ==== Sys2Proof/Laws/Ops.lean ====
section
/-! SUPPORT. What each shared operation does, said once. -/

namespace Sys2Proof.Machine

/-- A transaction's end is always a next state: the answer joins the observation and nothing else changes. -/
@[simp] theorem complete_eq (s : State) (a : Answer) : complete s a = .next (s.record a) := by
  cases a <;> rfl

@[simp] theorem execIllegal_eq (s : State) : execIllegal s = .next (s.record (.error .illegalOp)) := rfl

theorem complete_next_iff {s t : State} {a : Answer} : complete s a = .next t ↔ t = s.record a := by
  simp [eq_comm]

@[simp] theorem fetch_of_pending_nil {s : State} (h : s.pending = []) : fetch s = none := by
  simp [fetch, h]

@[simp] theorem fetch_of_pending_cons {s : State} {t : InPorts} {ts : List InPorts} (h : s.pending = t :: ts) :
    fetch s = some (s.present t ts) := by
  simp [fetch, h]

/-- After an answer, the output ports are those the answer drives. -/
@[simp] theorem outPorts_record (s : State) (a : Answer) : outPorts (s.record a) = some (drive a) := by
  simp [outPorts]

/-- Output `pdo_out[k + 1]` is the wire form of entry `k`, or 0 beyond the list. -/
theorem pdoWires_getElem (es : List PdoRec) (k : Fin 7) :
    (pdoWires es)[k] = (es[k.val]?.map pdoWire).getD ⟨0, noFixedPdo, noPpsPdo⟩ := by
  simp [pdoWires]

/-- A product that fits 16 bits is exact. -/
theorem scale_toNat {n : Nat} (i : LutIndex) (raw : BitVec n) (h : raw.toNat * (lut i).step < 65536) :
    (scale i raw).toNat = raw.toNat * (lut i).step := by
  simp [scale, Nat.mod_eq_of_lt h]

/-- Everything `unscale` can answer. -/
theorem unscale_cases (i : LutIndex) (p : Word16) :
    (p.toNat % (lut i).step ≠ 0 ∧ unscale i p = .error .notExactStep) ∨
    (p.toNat % (lut i).step = 0 ∧ rawLimit i ≤ p.toNat / (lut i).step ∧ unscale i p = .error .valueOutOfRange) ∨
    (p.toNat % (lut i).step = 0 ∧ p.toNat / (lut i).step < rawLimit i ∧
      unscale i p = .ok (p.toNat / (lut i).step)) := by
  by_cases h : p.toNat % (lut i).step = 0
  · by_cases h' : rawLimit i ≤ p.toNat / (lut i).step
    · exact .inr (.inl ⟨h, h', by simp [unscale, h, h']⟩)
    · exact .inr (.inr ⟨h, by omega, by simp [unscale, h, h']⟩)
  · exact .inl ⟨h, by simp [unscale, h]⟩

/-- Everything `pdoDecode` can answer. -/
theorem pdoDecode_cases (c : Config) (w : Word32) :
    (pdoTag w = 0b00#2 ∧ pdoDecode c w = some (.fixed (fixedPdoOf w))) ∨
    (pdoTag w ≠ 0b00#2 ∧ pdoTag w = ppsTagBits c.ppsTag ∧ pdoDecode c w = some (.pps (ppsPdoOf w))) ∨
    (pdoTag w ≠ 0b00#2 ∧ pdoTag w ≠ ppsTagBits c.ppsTag ∧ pdoDecode c w = none) := by
  by_cases h : pdoTag w = 0b00#2
  · exact .inl ⟨h, by simp [pdoDecode, h]⟩
  · by_cases h' : pdoTag w = ppsTagBits c.ppsTag
    · exact .inr (.inl ⟨h, h', by simp only [pdoDecode, if_neg h, if_pos h']⟩)
    · exact .inr (.inr ⟨h, h', by simp only [pdoDecode, if_neg h, if_neg h']⟩)

/-- When a list decode succeeds, it gives each word's entry in order. -/
theorem decodeWords_ok_iff (c : Config) (ws : List Word32) (k : Nat) (es : List PdoRec) :
    decodeWords c k ws = .ok es ↔ ws.map (pdoDecode c) = es.map some := by
  induction ws generalizing k es with
  | nil => cases es <;> simp [decodeWords]
  | cons w ws ih =>
    cases h : pdoDecode c w with
    | none => cases es <;> simp [decodeWords, h]
    | some e =>
      cases es with
      | nil => cases h' : decodeWords c (k + 1) ws <;> simp [decodeWords, h, h']
      | cons e' es =>
        cases h' : decodeWords c (k + 1) ws with
        | error x =>
          have hn := (ih (k + 1) es).not.mp (by simp [h'])
          simp [decodeWords, h, h', hn]
        | ok es' =>
          have hy := ih (k + 1) es
          rw [h'] at hy
          simp [decodeWords, h, h', ← hy]

/-- A successful list decode gives one entry a word. -/
theorem decodeWords_length {c : Config} {ws : List Word32} {k : Nat} {es : List PdoRec}
    (h : decodeWords c k ws = .ok es) : es.length = ws.length := by
  simpa using (congrArg List.length ((decodeWords_ok_iff c ws k es).mp h)).symm

end Sys2Proof.Machine
end

