-- ==== Sys2Proof/Laws/Codec.lean ====
section
/-! SUPPORT. What the shared codec operations do, each said once as arithmetic: bytes, fields, tags, packed words, list
decoding, request building. -/

namespace Sys2Proof.Machine

/-- A payload byte inside the buffer is the port's byte. -/
theorem payByte_of_lt (pay : Vector Byte 28) {i : Nat} (h : i < 28) : payByte pay i = pay[i] := by
  simp [payByte, h]

/-- A concatenation as a number. -/
theorem append_toNat {n m : Nat} (x : BitVec n) (y : BitVec m) : (x ++ y).toNat = x.toNat * 2 ^ m + y.toNat := by
  rw [BitVec.toNat_append, Nat.shiftLeft_eq, Nat.mul_comm, ← Nat.two_pow_add_eq_or_of_lt y.isLt]

/-- A field of a word as a number. -/
theorem field_toNat (w : Word32) (lo n : Nat) : (w.extractLsb' lo n).toNat = w.toNat / 2 ^ lo % 2 ^ n := by
  simp [BitVec.extractLsb', Nat.shiftRight_eq_div_pow]

theorem wordOfBytes_le_toNat (b0 b1 b2 b3 : Byte) : (wordOfBytes .le b0 b1 b2 b3).toNat =
    b0.toNat + 2 ^ 8 * b1.toNat + 2 ^ 16 * b2.toNat + 2 ^ 24 * b3.toNat := by
  simp only [wordOfBytes, append_toNat]; omega

theorem wordOfBytes_be_toNat (b0 b1 b2 b3 : Byte) : (wordOfBytes .be b0 b1 b2 b3).toNat =
    b3.toNat + 2 ^ 8 * b2.toNat + 2 ^ 16 * b1.toNat + 2 ^ 24 * b0.toNat := by
  simp only [wordOfBytes, append_toNat]; omega

/-- The tag is the word's top two bits. -/
theorem pdoTag_toNat (w : Word32) : (pdoTag w).toNat = w.toNat / 2 ^ 30 := by
  have := w.isLt
  rw [pdoTag, field_toNat]; omega

/-- `PPS_TAG` is never the Fixed tag. -/
theorem ppsTagBits_ne_fixed (t : PpsTag) : ppsTagBits t ≠ 0#2 := by cases t <;> decide

/-- Every raw value that fits a LUT entry's width is scaled exactly. -/
theorem scale_of_fits {n : Nat} (i : LutIndex) (raw : BitVec n) (h : raw.toNat < 2 ^ (lut i).width) :
    (scale i raw).toNat = raw.toNat * (lut i).step := by
  refine scale_toNat i raw ?_
  have hb : (2 ^ (lut i).width - 1) * (lut i).step < 65536 := by cases i <;> decide
  have : raw.toNat * (lut i).step ≤ (2 ^ (lut i).width - 1) * (lut i).step := Nat.mul_le_mul_right _ (by omega)
  omega

/-- A field as wide as its LUT entry is scaled exactly. -/
theorem scale_of_width {n : Nat} (i : LutIndex) (raw : BitVec n) (h : (lut i).width = n) :
    (scale i raw).toNat = raw.toNat * (lut i).step := scale_of_fits i raw (h ▸ raw.isLt)

theorem fixedPdoOf_scaled (w : Word32) : PdoScaled (.fixed (fixedPdoOf w)) :=
  ⟨scale_of_width .pdoFixI _ rfl, scale_of_width .pdoFixV _ rfl⟩

theorem ppsPdoOf_scaled (w : Word32) : PdoScaled (.pps (ppsPdoOf w)) :=
  ⟨scale_of_width .pdoPpsI _ rfl, scale_of_width .pdoPpsVmin _ rfl, scale_of_width .pdoPpsVmax _ rfl⟩

theorem rdoDecode_scaled (v : Variant) (w : Word32) : RdoScaled (rdoDecode v w) := by
  cases v
  · exact ⟨scale_of_width .rdoFixImax _ rfl, scale_of_width .rdoFixIop _ rfl⟩
  · exact ⟨scale_of_width .rdoPpsIop _ rfl, scale_of_width .rdoPpsV _ rfl⟩

theorem pdoPackFixed_toNat (i v : BitVec 10) : (pdoPackFixed i v).toNat = v.toNat * 2 ^ 10 + i.toNat := by
  simp only [pdoPackFixed, append_toNat]; simp

theorem pdoPackPps_toNat (c : Config) (i : BitVec 7) (lo hi : BitVec 8) (a : BitVec 2) :
    (pdoPackPps c i lo hi a).toNat = (ppsTagBits c.ppsTag).toNat * 2 ^ 30 + a.toNat * 2 ^ 28 + hi.toNat * 2 ^ 17
      + lo.toNat * 2 ^ 8 + i.toNat := by
  simp only [pdoPackPps, append_toNat]; simp; omega

theorem rdoPackFixed_toNat (m o : BitVec 10) (p : BitVec 3) :
    (rdoPackFixed m o p).toNat = p.toNat * 2 ^ 28 + o.toNat * 2 ^ 10 + m.toNat := by
  simp only [rdoPackFixed, append_toNat]; simp; omega

theorem rdoPackPps_toNat (o : BitVec 7) (v : BitVec 11) (p : BitVec 3) :
    (rdoPackPps o v p).toNat = p.toNat * 2 ^ 28 + v.toNat * 2 ^ 9 + o.toNat := by
  simp only [rdoPackPps, append_toNat]; simp; omega

/-- When a list decode fails, it names the position of some word of the list. -/
theorem decodeWords_error {c : Config} {ws : List Word32} {k : Nat} {e : Err} (h : decodeWords c k ws = .error e) :
    ∃ j, j < ws.length ∧ e = .unrecognizedVariant (BitVec.ofNat 3 (k + j)) := by
  induction ws generalizing k with
  | nil => cases h
  | cons w ws ih =>
    simp only [decodeWords] at h
    split at h
    · cases h; exact ⟨0, by simp, rfl⟩
    · split at h
      · cases h
      · rename_i h'
        cases h
        obtain ⟨j, hj, rfl⟩ := ih h'
        exact ⟨j + 1, by simpa using hj, by congr 2; omega⟩

/-- Everything `requestFixed` can answer. -/
theorem requestFixed_cases (c : Config) (e : FixedPdo) (pos : Byte) (reqI : Word16) :
    (reqI.toNat % 10 ≠ 0 ∧ requestFixed c e pos reqI = .error .notExactStep) ∨
    (reqI.toNat % 10 = 0 ∧ e.maxIRaw.toNat < reqI.toNat / 10 ∧ requestFixed c e pos reqI = .error .valueOutOfRange) ∨
    (reqI.toNat % 10 = 0 ∧ reqI.toNat / 10 ≤ e.maxIRaw.toNat ∧ requestFixed c e pos reqI =
      .ok (requestOf c .fixed (rdoPackFixed (fixedRequestMax c (BitVec.ofNat 10 (reqI.toNat / 10)) e.maxIRaw)
        (BitVec.ofNat 10 (reqI.toNat / 10)) (pos.setWidth 3)))) := by
  simp only [requestFixed, show (lut .rdoFixIop).step = 10 from rfl]
  by_cases h : reqI.toNat % 10 = 0
  · by_cases h' : e.maxIRaw.toNat < reqI.toNat / 10
    · exact .inr (.inl ⟨h, h', by rw [if_neg (by omega), if_pos h']⟩)
    · exact .inr (.inr ⟨h, by omega, by rw [if_neg (by omega), if_neg h']⟩)
  · exact .inl ⟨h, by rw [if_pos h]⟩

/-- Everything `requestPps` can answer. -/
theorem requestPps_cases (c : Config) (e : PpsPdo) (pos : Byte) (reqI reqV : Word16) :
    ((reqI.toNat % 50 ≠ 0 ∨ reqV.toNat % 20 ≠ 0) ∧ requestPps c e pos reqI reqV = .error .notExactStep) ∨
    (reqI.toNat % 50 = 0 ∧ reqV.toNat % 20 = 0 ∧
      (e.maxIRaw.toNat < reqI.toNat / 50 ∨ reqV.toNat < e.minVMV.toNat ∨ e.maxVMV.toNat < reqV.toNat) ∧
      requestPps c e pos reqI reqV = .error .valueOutOfRange) ∨
    (reqI.toNat % 50 = 0 ∧ reqV.toNat % 20 = 0 ∧ reqI.toNat / 50 ≤ e.maxIRaw.toNat ∧ e.minVMV.toNat ≤ reqV.toNat ∧
      reqV.toNat ≤ e.maxVMV.toNat ∧ requestPps c e pos reqI reqV =
        .ok (requestOf c .pps (rdoPackPps (BitVec.ofNat 7 (reqI.toNat / 50)) (BitVec.ofNat 11 (reqV.toNat / 20))
          (pos.setWidth 3)))) := by
  simp only [requestPps, show (lut .rdoPpsIop).step = 50 from rfl, show (lut .rdoPpsV).step = 20 from rfl]
  split
  · rename_i h; exact .inl ⟨.inl h, rfl⟩
  split
  · rename_i h; exact .inl ⟨.inr h, rfl⟩
  split
  · exact .inr (.inl ⟨by omega, by omega, .inl (by assumption), rfl⟩)
  split
  · exact .inr (.inl ⟨by omega, by omega, .inr (by assumption), rfl⟩)
  · exact .inr (.inr ⟨by omega, by omega, by omega, by omega, by omega, rfl⟩)

end Sys2Proof.Machine
end

