-- ==== Sys2Proof/Laws/PerInstr.lean ====
section
/-! SUPPORT. A fact about each instruction as a term: its command fields are legal, and its command word is those fields. -/

namespace Sys2Proof.Laws

/-- The fields of `i` are legal, and `encode` writes exactly them (R70 to R73). -/
def EncodesItsCommand.Statement (i : Instr) : Prop := i.wellFormed = true ∧ encode i = i.cmd.toByte

theorem EncodesItsCommand.unitDecStatV : EncodesItsCommand.Statement .unitDecStatV := ⟨rfl, rfl⟩
theorem EncodesItsCommand.unitDecStatI : EncodesItsCommand.Statement .unitDecStatI := ⟨rfl, rfl⟩
theorem EncodesItsCommand.unitDecStatT : EncodesItsCommand.Statement .unitDecStatT := ⟨rfl, rfl⟩
theorem EncodesItsCommand.unitDecPdoFixI : EncodesItsCommand.Statement .unitDecPdoFixI := ⟨rfl, rfl⟩
theorem EncodesItsCommand.unitDecPdoFixV : EncodesItsCommand.Statement .unitDecPdoFixV := ⟨rfl, rfl⟩
theorem EncodesItsCommand.unitDecPdoPpsI : EncodesItsCommand.Statement .unitDecPdoPpsI := ⟨rfl, rfl⟩
theorem EncodesItsCommand.unitDecPdoPpsVmin : EncodesItsCommand.Statement .unitDecPdoPpsVmin := ⟨rfl, rfl⟩
theorem EncodesItsCommand.unitDecPdoPpsVmax : EncodesItsCommand.Statement .unitDecPdoPpsVmax := ⟨rfl, rfl⟩
theorem EncodesItsCommand.unitDecRdoFixImax : EncodesItsCommand.Statement .unitDecRdoFixImax := ⟨rfl, rfl⟩
theorem EncodesItsCommand.unitDecRdoFixIop : EncodesItsCommand.Statement .unitDecRdoFixIop := ⟨rfl, rfl⟩
theorem EncodesItsCommand.unitDecRdoPpsIop : EncodesItsCommand.Statement .unitDecRdoPpsIop := ⟨rfl, rfl⟩
theorem EncodesItsCommand.unitDecRdoPpsV : EncodesItsCommand.Statement .unitDecRdoPpsV := ⟨rfl, rfl⟩
theorem EncodesItsCommand.unitEncStatV : EncodesItsCommand.Statement .unitEncStatV := ⟨rfl, rfl⟩
theorem EncodesItsCommand.unitEncStatI : EncodesItsCommand.Statement .unitEncStatI := ⟨rfl, rfl⟩
theorem EncodesItsCommand.unitEncStatT : EncodesItsCommand.Statement .unitEncStatT := ⟨rfl, rfl⟩
theorem EncodesItsCommand.unitEncPdoFixI : EncodesItsCommand.Statement .unitEncPdoFixI := ⟨rfl, rfl⟩
theorem EncodesItsCommand.unitEncPdoFixV : EncodesItsCommand.Statement .unitEncPdoFixV := ⟨rfl, rfl⟩
theorem EncodesItsCommand.unitEncPdoPpsI : EncodesItsCommand.Statement .unitEncPdoPpsI := ⟨rfl, rfl⟩
theorem EncodesItsCommand.unitEncPdoPpsVmin : EncodesItsCommand.Statement .unitEncPdoPpsVmin := ⟨rfl, rfl⟩
theorem EncodesItsCommand.unitEncPdoPpsVmax : EncodesItsCommand.Statement .unitEncPdoPpsVmax := ⟨rfl, rfl⟩
theorem EncodesItsCommand.unitEncRdoFixImax : EncodesItsCommand.Statement .unitEncRdoFixImax := ⟨rfl, rfl⟩
theorem EncodesItsCommand.unitEncRdoFixIop : EncodesItsCommand.Statement .unitEncRdoFixIop := ⟨rfl, rfl⟩
theorem EncodesItsCommand.unitEncRdoPpsIop : EncodesItsCommand.Statement .unitEncRdoPpsIop := ⟨rfl, rfl⟩
theorem EncodesItsCommand.unitEncRdoPpsV : EncodesItsCommand.Statement .unitEncRdoPpsV := ⟨rfl, rfl⟩
theorem EncodesItsCommand.statusDec : EncodesItsCommand.Statement .statusDec := ⟨rfl, rfl⟩
theorem EncodesItsCommand.eventDec : EncodesItsCommand.Statement .eventDec := ⟨rfl, rfl⟩
theorem EncodesItsCommand.eventEnc : EncodesItsCommand.Statement .eventEnc := ⟨rfl, rfl⟩
theorem EncodesItsCommand.pdoDec : EncodesItsCommand.Statement .pdoDec := ⟨rfl, rfl⟩
theorem EncodesItsCommand.pdoListDec : EncodesItsCommand.Statement .pdoListDec := ⟨rfl, rfl⟩
theorem EncodesItsCommand.pdoPackFixed : EncodesItsCommand.Statement .pdoPackFixed := ⟨rfl, rfl⟩
theorem EncodesItsCommand.pdoPackPps : EncodesItsCommand.Statement .pdoPackPps := ⟨rfl, rfl⟩
theorem EncodesItsCommand.rdoEnc : EncodesItsCommand.Statement .rdoEnc := ⟨rfl, rfl⟩
theorem EncodesItsCommand.rdoDecFixed : EncodesItsCommand.Statement .rdoDecFixed := ⟨rfl, rfl⟩
theorem EncodesItsCommand.rdoDecPps : EncodesItsCommand.Statement .rdoDecPps := ⟨rfl, rfl⟩
theorem EncodesItsCommand.rdoPackFixed : EncodesItsCommand.Statement .rdoPackFixed := ⟨rfl, rfl⟩
theorem EncodesItsCommand.rdoPackPps : EncodesItsCommand.Statement .rdoPackPps := ⟨rfl, rfl⟩
theorem EncodesItsCommand.addrLookup : EncodesItsCommand.Statement .addrLookup := ⟨rfl, rfl⟩

end Sys2Proof.Laws
end

