-- ==== Sys2Proof/Tests/Slice0.lean ====
section
/-! SUPPORT. The author's own tests: the vectors of 95_test_vectors.md (named in each comment), the WellFormed smoke, the
decoding of written-out words, and a witness for the hypotheses of every statement that has some. -/

open Sys2Proof Sys2Proof.Machine Sys2Proof.Claims

namespace Sys2Proof.Tests

/-- The machine of a build whose host presents one assembler line next. -/
def queued (c : Config) (cmd : Byte) (ops : List AsmOperand) : State :=
  { State.reset with cfg := c, pending := [asmLine c.wordOrder cmd ops] }

/-- The machine of a build with one line's operands on its ports. -/
def onPorts (c : Config) (ops : List AsmOperand) : State :=
  { State.reset with cfg := c, inp := asmLine c.wordOrder 0 ops }

/-- What one line is answered. -/
def answers (c : Config) (cmd : Byte) (ops : List AsmOperand) : List Answer :=
  match step (queued c cmd ops) with
  | .next s => s.observed
  | _ => []

/-- The default build, and the builds of the other values of each parameter (R7). -/
def std : Config := Config.defaults
def bigEndian : Config := { Config.defaults with wordOrder := .be }
def tag11 : Config := { Config.defaults with ppsTag := .tag11 }
def fullMax : Config := { Config.defaults with fixedRdoMax := .pdoMax }

/-- The payload of the vectors' list L (95_test_vectors.md section 2.5). -/
def listL : AsmOperand := .payLanes [0x00019064, 0x40DC213C]

/-! ### WellFormed smoke: one ill-formed command for each check -/

theorem test_wellFormed_refuses_reserved_op : Cmd.wellFormed ⟨0xC, 0⟩ = false ∧ Cmd.opDefined ⟨0xC, 0⟩ = false := by decide
theorem test_wellFormed_refuses_illegal_sel :
    Cmd.wellFormed ⟨0x0, 12⟩ = false ∧ Cmd.opDefined ⟨0x0, 12⟩ = true ∧ Cmd.wellFormed ⟨0x7, 2⟩ = false ∧
    Cmd.wellFormed ⟨0x2, 1⟩ = false := by decide
theorem test_wellFormed_accepts_last_sel :
    Cmd.wellFormed ⟨0x0, 11⟩ = true ∧ Cmd.wellFormed ⟨0xA, 1⟩ = true ∧ Cmd.wellFormed ⟨0xB, 0⟩ = true := by decide

/-! ### Decoding: each command's word written out, SEL in the high nibble, OP in the low one (R70 to R72) -/

theorem test_decode_unit_dec_words :
    decode (0b0000#4 ++ 0b0000#4) = .ok .unitDecStatV ∧
    decode (0b0001#4 ++ 0b0000#4) = .ok .unitDecStatI ∧
    decode (0b0010#4 ++ 0b0000#4) = .ok .unitDecStatT ∧
    decode (0b0011#4 ++ 0b0000#4) = .ok .unitDecPdoFixI ∧
    decode (0b0100#4 ++ 0b0000#4) = .ok .unitDecPdoFixV ∧
    decode (0b0101#4 ++ 0b0000#4) = .ok .unitDecPdoPpsI ∧
    decode (0b0110#4 ++ 0b0000#4) = .ok .unitDecPdoPpsVmin ∧
    decode (0b0111#4 ++ 0b0000#4) = .ok .unitDecPdoPpsVmax ∧
    decode (0b1000#4 ++ 0b0000#4) = .ok .unitDecRdoFixImax ∧
    decode (0b1001#4 ++ 0b0000#4) = .ok .unitDecRdoFixIop ∧
    decode (0b1010#4 ++ 0b0000#4) = .ok .unitDecRdoPpsIop ∧
    decode (0b1011#4 ++ 0b0000#4) = .ok .unitDecRdoPpsV := by decide
theorem test_decode_unit_enc_words :
    decode (0b0000#4 ++ 0b0001#4) = .ok .unitEncStatV ∧
    decode (0b0001#4 ++ 0b0001#4) = .ok .unitEncStatI ∧
    decode (0b0010#4 ++ 0b0001#4) = .ok .unitEncStatT ∧
    decode (0b0011#4 ++ 0b0001#4) = .ok .unitEncPdoFixI ∧
    decode (0b0100#4 ++ 0b0001#4) = .ok .unitEncPdoFixV ∧
    decode (0b0101#4 ++ 0b0001#4) = .ok .unitEncPdoPpsI ∧
    decode (0b0110#4 ++ 0b0001#4) = .ok .unitEncPdoPpsVmin ∧
    decode (0b0111#4 ++ 0b0001#4) = .ok .unitEncPdoPpsVmax ∧
    decode (0b1000#4 ++ 0b0001#4) = .ok .unitEncRdoFixImax ∧
    decode (0b1001#4 ++ 0b0001#4) = .ok .unitEncRdoFixIop ∧
    decode (0b1010#4 ++ 0b0001#4) = .ok .unitEncRdoPpsIop ∧
    decode (0b1011#4 ++ 0b0001#4) = .ok .unitEncRdoPpsV := by decide
theorem test_decode_status_event_words :
    decode (0b0000#4 ++ 0b0010#4) = .ok .statusDec ∧
    decode (0b0000#4 ++ 0b0011#4) = .ok .eventDec ∧
    decode (0b0000#4 ++ 0b0100#4) = .ok .eventEnc := by decide
theorem test_decode_pdo_words :
    decode (0b0000#4 ++ 0b0101#4) = .ok .pdoDec ∧
    decode (0b0000#4 ++ 0b0110#4) = .ok .pdoListDec ∧
    decode (0b0000#4 ++ 0b0111#4) = .ok .pdoPackFixed ∧
    decode (0b0001#4 ++ 0b0111#4) = .ok .pdoPackPps := by decide
theorem test_decode_rdo_words :
    decode (0b0000#4 ++ 0b1000#4) = .ok .rdoEnc ∧
    decode (0b0000#4 ++ 0b1001#4) = .ok .rdoDecFixed ∧
    decode (0b0001#4 ++ 0b1001#4) = .ok .rdoDecPps ∧
    decode (0b0000#4 ++ 0b1010#4) = .ok .rdoPackFixed ∧
    decode (0b0001#4 ++ 0b1010#4) = .ok .rdoPackPps := by decide
theorem test_decode_addr_words :
    decode (0b0000#4 ++ 0b1011#4) = .ok .addrLookup := by decide
theorem test_decode_refuses_by_name :
    decode 0xC0 = .error (.illegalSel 0 12) ∧ decode 0x12 = .error (.illegalSel 2 1) ∧
    decode 0x0F = .error (.reservedOp 15) ∧ decode 0xFF = .error (.reservedOp 15) := by decide
theorem test_decodeTableWord : decodeTableWord 8 0x17 = some .pdoPackPps ∧ decodeTableWord 8 0xC1 = none := by decide

/-! ### Unit scaling (T1 to T35, W1 to W3) -/

/-- W1, T3. -/
theorem test_unitDec_statV : answers std 0x00 [.val 50] = [.ok (.unit ⟨50, 4000, .mV⟩)] ∧
    answers std 0x00 [.val 256] = [.error .valueOutOfRange] := by decide
/-- T18, T21. -/
theorem test_unitEnc_statV : answers std 0x01 [.val 4000] = [.ok (.unit ⟨50, 4000, .mV⟩)] ∧
    answers std 0x01 [.val 65535] = [.error .notExactStep] := by decide
/-- T4. -/
theorem test_unitDec_statI : answers std 0x10 [.val 255] = [.ok (.unit ⟨255, 6120, .mA⟩)] := by decide
/-- T22, T23. -/
theorem test_unitEnc_statI : answers std 0x11 [.val 240] = [.ok (.unit ⟨10, 240, .mA⟩)] ∧
    answers std 0x11 [.val 250] = [.error .notExactStep] := by decide
/-- W3. -/
theorem test_unitDec_statT : answers std 0x20 [.val 45] = [.ok (.unit ⟨45, 45, .degC⟩)] := by decide
/-- T24, T25. -/
theorem test_unitEnc_statT : answers std 0x21 [.val 255] = [.ok (.unit ⟨255, 255, .degC⟩)] ∧
    answers std 0x21 [.val 256] = [.error .valueOutOfRange] := by decide
/-- T5. -/
theorem test_unitDec_pdoFixI : answers std 0x30 [.val 100] = [.ok (.unit ⟨100, 1000, .mA⟩)] := by decide
/-- T26, T27. -/
theorem test_unitEnc_pdoFixI : answers std 0x31 [.val 10230] = [.ok (.unit ⟨1023, 10230, .mA⟩)] ∧
    answers std 0x31 [.val 10240] = [.error .valueOutOfRange] := by decide
/-- T7. -/
theorem test_unitDec_pdoFixV : answers std 0x40 [.val 1023] = [.ok (.unit ⟨1023, 51150, .mV⟩)] := by decide
/-- T28, T29. -/
theorem test_unitEnc_pdoFixV : answers std 0x41 [.val 5000] = [.ok (.unit ⟨100, 5000, .mV⟩)] ∧
    answers std 0x41 [.val 5025] = [.error .notExactStep] := by decide
/-- T8, T9. -/
theorem test_unitDec_pdoPpsI : answers std 0x50 [.val 127] = [.ok (.unit ⟨127, 6350, .mA⟩)] ∧
    answers std 0x50 [.val 128] = [.error .valueOutOfRange] := by decide
/-- T30. -/
theorem test_unitEnc_pdoPpsI : answers std 0x51 [.val 6400] = [.error .valueOutOfRange] := by decide
/-- T10. -/
theorem test_unitDec_pdoPpsVmin : answers std 0x60 [.val 33] = [.ok (.unit ⟨33, 3300, .mV⟩)] := by decide
/-- T31. -/
theorem test_unitEnc_pdoPpsVmin : answers std 0x61 [.val 3300] = [.ok (.unit ⟨33, 3300, .mV⟩)] := by decide
/-- T11. -/
theorem test_unitDec_pdoPpsVmax : answers std 0x70 [.val 110] = [.ok (.unit ⟨110, 11000, .mV⟩)] := by decide
/-- R117. -/
theorem test_unitEnc_pdoPpsVmax : answers std 0x71 [.val 11000] = [.ok (.unit ⟨110, 11000, .mV⟩)] := by decide
/-- T12. -/
theorem test_unitDec_rdoFixImax : answers std 0x80 [.val 50] = [.ok (.unit ⟨50, 500, .mA⟩)] := by decide
/-- R117. -/
theorem test_unitEnc_rdoFixImax : answers std 0x81 [.val 500] = [.ok (.unit ⟨50, 500, .mA⟩)] := by decide
/-- T13. -/
theorem test_unitDec_rdoFixIop : answers std 0x90 [.val 1024] = [.error .valueOutOfRange] := by decide
/-- R117. -/
theorem test_unitEnc_rdoFixIop : answers std 0x91 [.val 505] = [.error .notExactStep] := by decide
/-- T14. -/
theorem test_unitDec_rdoPpsIop : answers std 0xA0 [.val 40] = [.ok (.unit ⟨40, 2000, .mA⟩)] := by decide
/-- T32. -/
theorem test_unitEnc_rdoPpsIop : answers std 0xA1 [.val 0] = [.ok (.unit ⟨0, 0, .mA⟩)] := by decide
/-- T15, T16. -/
theorem test_unitDec_rdoPpsV : answers std 0xB0 [.val 2047] = [.ok (.unit ⟨2047, 40940, .mV⟩)] ∧
    answers std 0xB0 [.val 2048] = [.error .valueOutOfRange] := by decide
/-- T33, T34. -/
theorem test_unitEnc_rdoPpsV : answers std 0xB1 [.val 9000] = [.ok (.unit ⟨450, 9000, .mV⟩)] ∧
    answers std 0xB1 [.val 40960] = [.error .valueOutOfRange] := by decide

/-! ### Status and event flags (T40 to T59) -/

/-- W5, T40. -/
theorem test_statusDec : answers std 0x02 [.payBytes [0x81, 0x32, 0x0A, 0x2D]] =
      [.ok (.status ⟨true, false, false, false, false, false, true, 0x32, 0x0A, 0x2D, 4000, 240, 45⟩)] ∧
    answers std 0x02 [.payBytes [0x08, 0, 0, 0]] =
      [.ok (.status ⟨false, false, false, false, false, false, false, 0, 0, 0, 0, 0, 0⟩)] := by decide
/-- T44, T45, T42: each flag at its own bit; the readings at their maxima. -/
theorem test_statusDec_bits : answers std 0x02 [.payBytes [0x04, 0x3F, 0x7D, 0x1E]] =
      [.ok (.status ⟨false, false, true, false, false, false, false, 0x3F, 0x7D, 0x1E, 5040, 3000, 30⟩)] ∧
    answers std 0x02 [.payBytes [0x13, 0x3F, 0x7D, 0x1E]] =
      [.ok (.status ⟨true, true, false, true, false, false, false, 0x3F, 0x7D, 0x1E, 5040, 3000, 30⟩)] ∧
    answers std 0x02 [.payBytes [0xFF, 0xFF, 0xFF, 0xFF]] =
      [.ok (.status ⟨true, true, true, true, true, true, true, 0xFF, 0xFF, 0xFF, 20400, 6120, 255⟩)] := by decide
/-- T50, T51. -/
theorem test_eventDec : answers std 0x03 [.payBytes [0x05, 0x0A]] =
      [.ok (.events ⟨true, false, true, false, false, true, false, true⟩)] ∧
    answers std 0x03 [.payBytes [0x0A, 0x05]] =
      [.ok (.events ⟨false, true, false, true, true, false, true, false⟩)] := by decide
/-- T52, and `WORD_ORDER` does not apply (R52). -/
theorem test_eventDec_ignores_reserved : answers bigEndian 0x03 [.payBytes [0xF0, 0xF0]] =
    [.ok (.events ⟨false, false, false, false, false, false, false, false⟩)] := by decide
/-- T56, T57. -/
theorem test_eventEnc : answers std 0x04 [.evIn ⟨true, false, false, false, false, true, false, false⟩] =
      [.ok (.eventBytes 0x01 0x02)] ∧
    answers std 0x04 [.evIn ⟨false, false, false, true, false, false, false, true⟩] =
      [.ok (.eventBytes 0x08 0x08)] := by decide
/-- T55. -/
theorem test_eventEnc_all : answers std 0x04 [.evIn ⟨true, true, true, true, true, true, true, true⟩] =
    [.ok (.eventBytes 0x0F 0x0F)] := by decide

/-! ### PDO demultiplexer (T60 to T87) -/

/-- T63, T67, T70, T72. -/
theorem test_pdoDec : answers std 0x05 [.payLanes [0x3FF1912C]] = [.ok (.pdos [.fixed ⟨300, 100, 3000, 5000⟩])] ∧
    answers std 0x05 [.payLanes [0x50DC213C]] = [.ok (.pdos [.pps ⟨60, 33, 110, 1, 3000, 3300, 11000⟩])] ∧
    answers std 0x05 [.payLanes [0x80000000]] = [.error (.unrecognizedVariant 0)] ∧
    answers bigEndian 0x05 [.payBytes [0x00, 0x01, 0x91, 0x2C]] = [.ok (.pdos [.fixed ⟨300, 100, 3000, 5000⟩])] := by
  decide
/-- T71, W4: the tag table under PPS_TAG = 0b11. -/
theorem test_pdoDec_ppsTag : answers std 0x05 [.payLanes [0xC0DC213C]] = [.error (.unrecognizedVariant 0)] ∧
    answers tag11 0x05 [.payLanes [0xC0DC213C]] = [.ok (.pdos [.pps ⟨60, 33, 110, 0, 3000, 3300, 11000⟩])] ∧
    answers tag11 0x05 [.payLanes [0x40DC213C]] = [.error (.unrecognizedVariant 0)] := by decide
/-- T74, T75, T76. -/
theorem test_pdoListDec : answers std 0x06 [.cnt 2, .payLanes [0x0001912C, 0x40DC213C, 0xC0000000]] =
      [.ok (.pdos [.fixed ⟨300, 100, 3000, 5000⟩, .pps ⟨60, 33, 110, 0, 3000, 3300, 11000⟩])] ∧
    answers std 0x06 [.cnt 3, .payLanes [0x0001912C, 0x40DC213C, 0xC0000000]] = [.error (.unrecognizedVariant 3)] ∧
    answers std 0x06 [.cnt 2, .payLanes [0x80000000, 0xC0000000]] = [.error (.unrecognizedVariant 1)] := by decide
/-- T73, T77, T78. -/
theorem test_pdoListDec_count : answers std 0x06 [.cnt 0, .payLanes [0x80000000]] = [.ok (.pdos [])] ∧
    answers std 0x06 [.cnt 7, .payLanes (List.replicate 7 0x0001912C)] =
      [.ok (.pdos (List.replicate 7 (.fixed ⟨300, 100, 3000, 5000⟩)))] ∧
    answers std 0x06 [.cnt 8] = [.error .countOutOfRange] := by decide
/-- T79, T80, T81. -/
theorem test_pdoPackFixed : answers std 0x07 [.fa 300, .fb 100] =
      [.ok (.packed 0x0001912C #v[0x2C, 0x91, 0x01, 0x00])] ∧
    answers std 0x07 [.fa 1023, .fb 1023] = [.ok (.packed 0x000FFFFF #v[0xFF, 0xFF, 0x0F, 0x00])] ∧
    answers std 0x07 [.fa 1024] = [.error .valueOutOfRange] := by decide
/-- T82, T83, T85. -/
theorem test_pdoPackPps : answers std 0x17 [.fa 127, .fb 255, .fc 255, .fd 3] =
      [.ok (.packed 0x71FEFF7F #v[0x7F, 0xFF, 0xFE, 0x71])] ∧
    answers tag11 0x17 [.fa 60, .fb 33, .fc 110] = [.ok (.packed 0xC0DC213C #v[0x3C, 0x21, 0xDC, 0xC0])] ∧
    answers std 0x17 [.fa 60, .fb 33, .fc 110, .fd 4] = [.error .valueOutOfRange] := by decide

/-! ### RDO encoder (T90 to T130) -/

/-- T97, T91, T98, T112, W7 under BE. -/
theorem test_rdoEnc_requests : answers std 0x08 [listL, .cnt 2, .pos 1, .reqI 500, .reqV 12345] =
      [.ok (.request (.fixed ⟨50, 50, 1, 500, 500⟩) 0x1000C832 #v[0x32, 0xC8, 0x00, 0x10])] ∧
    answers fullMax 0x08 [listL, .cnt 2, .pos 1, .reqI 500] =
      [.ok (.request (.fixed ⟨100, 50, 1, 1000, 500⟩) 0x1000C864 #v[0x64, 0xC8, 0x00, 0x10])] ∧
    answers std 0x08 [listL, .cnt 2, .pos 2, .reqI 2000, .reqV 9000] =
      [.ok (.request (.pps ⟨40, 450, 2, 2000, 9000⟩) 0x20038428 #v[0x28, 0x84, 0x03, 0x20])] ∧
    answers bigEndian 0x08 [.payLanes [0x00019064], .cnt 1, .pos 1, .reqI 500] =
      [.ok (.request (.fixed ⟨50, 50, 1, 500, 500⟩) 0x1000C832 #v[0x10, 0x00, 0xC8, 0x32])] := by decide
/-- T111, T109, T110, T112, T95, T108, T93, T103, T106, T107. -/
theorem test_rdoEnc_errors : answers std 0x08 [listL, .cnt 8, .pos 1, .reqI 500] = [.error .countOutOfRange] ∧
    answers std 0x08 [listL, .cnt 2, .pos 3, .reqI 500] = [.error .positionOutOfBounds] ∧
    answers std 0x08 [listL, .cnt 2, .pos 0, .reqI 500] = [.error .positionOutOfBounds] ∧
    answers std 0x08 [.payLanes [0x80000000], .cnt 1, .pos 1, .reqI 500] = [.error (.unrecognizedVariant 1)] ∧
    answers std 0x08 [listL, .cnt 2, .pos 1, .reqI 1005] = [.error .notExactStep] ∧
    answers std 0x08 [listL, .cnt 2, .pos 2, .reqI 3050, .reqV 3290] = [.error .notExactStep] ∧
    answers std 0x08 [listL, .cnt 2, .pos 1, .reqI 1010] = [.error .valueOutOfRange] ∧
    answers std 0x08 [listL, .cnt 2, .pos 2, .reqI 3050, .reqV 5000] = [.error .valueOutOfRange] ∧
    answers std 0x08 [listL, .cnt 2, .pos 2, .reqI 2000, .reqV 3280] = [.error .valueOutOfRange] ∧
    answers std 0x08 [listL, .cnt 2, .pos 2, .reqI 2000, .reqV 11020] = [.error .valueOutOfRange] := by decide
/-- T116, T118, T120. -/
theorem test_rdoDecFixed : answers std 0x09 [.payLanes [0x1000C832]] = [.ok (.rdo (.fixed ⟨50, 50, 1, 500, 500⟩))] ∧
    answers std 0x09 [.payLanes [0xFFFFFFFF]] = [.ok (.rdo (.fixed ⟨1023, 1023, 7, 10230, 10230⟩))] ∧
    answers std 0x09 [] = [.ok (.rdo (.fixed ⟨0, 0, 0, 0, 0⟩))] := by decide
/-- T117, T119, T121. -/
theorem test_rdoDecPps : answers std 0x19 [.payLanes [0x20038428]] = [.ok (.rdo (.pps ⟨40, 450, 2, 2000, 9000⟩))] ∧
    answers std 0x19 [.payLanes [0xFFFFFFFF]] = [.ok (.rdo (.pps ⟨127, 2047, 7, 6350, 40940⟩))] ∧
    answers std 0x19 [.payLanes [0x1000C832]] = [.ok (.rdo (.pps ⟨50, 100, 1, 2500, 2000⟩))] := by decide
/-- T124, T125. -/
theorem test_rdoPackFixed : answers std 0x0A [.fa 1023, .fb 1023, .fc 7] =
      [.ok (.packed 0x700FFFFF #v[0xFF, 0xFF, 0x0F, 0x70])] ∧
    answers std 0x0A [.fc 8] = [.error .valueOutOfRange] := by decide
/-- T127, T128, T129. -/
theorem test_rdoPackPps : answers std 0x1A [.fa 40, .fb 450, .fc 2] =
      [.ok (.packed 0x20038428 #v[0x28, 0x84, 0x03, 0x20])] ∧
    answers std 0x1A [.fa 127, .fb 2047, .fc 7] = [.ok (.packed 0x700FFE7F #v[0x7F, 0xFE, 0x0F, 0x70])] ∧
    answers std 0x1A [.fb 2048] = [.error .valueOutOfRange] := by decide

/-! ### Address ROM (T140 to T151), reserved commands (T160 to T165), output ports -/

/-- T140 to T147. -/
theorem test_addrLookup : answers std 0x0B [.val 0x00] = [.ok (.addr ⟨.pdoList, 4, 7, .read, 0x06⟩)] ∧
    answers std 0x0B [.val 0x1C] = [.ok (.addr ⟨.count, 1, 1, .read, 0xFF⟩)] ∧
    answers std 0x0B [.val 0x1D] = [.ok (.addr ⟨.status, 4, 1, .read, 0x02⟩)] ∧
    answers std 0x0B [.val 0x1E] = [.ok (.addr ⟨.event, 2, 1, .readWrite, 0x03⟩)] ∧
    answers std 0x0B [.val 0x20] = [.ok (.addr ⟨.readV, 1, 1, .read, 0x00⟩)] ∧
    answers std 0x0B [.val 0x21] = [.ok (.addr ⟨.readI, 1, 1, .read, 0x10⟩)] ∧
    answers std 0x0B [.val 0x22] = [.ok (.addr ⟨.readT, 1, 1, .read, 0x20⟩)] ∧
    answers std 0x0B [.val 0x30] = [.ok (.addr ⟨.rdo, 4, 1, .write, 0x09⟩)] := by decide
/-- T148, T149, T150. -/
theorem test_addrLookup_unknown : answers std 0x0B [.val 0x1F] = [.error .unknownAddress] ∧
    answers std 0x0B [.val 0x01] = [.error .unknownAddress] ∧
    answers std 0x0B [.val 0x11D] = [.error .unknownAddress] := by decide
/-- T17, T35, T46, T59, T86, T115, T122, T130, T151, T160 to T165. -/
theorem test_illegal_commands :
    ∀ c ∈ [0xC0, 0xF1, 0x12, 0x14, 0x27, 0x18, 0x29, 0x2A, 0x1B, 0x0C, 0x0D, 0x0E, 0x0F, 0xFF, (0x15 : Byte)],
      answers std c [] = [.error .illegalOp] := by decide
/-- T112's ports: code 1, position 1, every other output 0. -/
theorem test_error_ports : outPorts { State.reset with observed := [.error (.unrecognizedVariant 1)] } =
    some { OutPorts.zero with err := 1, errIdx := 1 } := by decide
/-- A placed command word is the next one to run. -/
theorem test_withFetchWord : fetch (State.reset.withFetchWord 8 0x0B) =
    some { State.reset with inp := { InPorts.zero with cmd := 0x0B } } := by decide

/-- Lines of 95_test_vectors.md's syntax (R85), a pseudo-instruction (R86) among them. -/
theorem test_assemble : assemble .le "VOLT_DEC" [.val 50] = some (asmLine .le 0x00 [.val 50]) ∧
    assemble .le "PDO_PACK.PPS" [.fa 1] = some (asmLine .le 0x17 [.fa 1]) ∧
    assemble .le "STATUS_ENC" [] = none := by decide

/-! ### Witnesses: for each statement with hypotheses, a concrete state and operands that meet them, at the ends of the
ranges its clauses speak of -/

/-- A state with one answer on record, so that a witness is not the reset state alone. -/
def used (s : State) : State := { s with observed := [.error .illegalOp] }

theorem witness_LegalCommandWords : (0xFF : Byte) ∉ legalWords.map Prod.fst ∧
    (queued std 0xFF []).pending = [asmLine .le 0xFF []] ∧ (asmLine .le 0xFF []).cmd = 0xFF := by decide
theorem witness_StepRunsTheDecodedCommand :
    (queued std 0x1A [.fa 1]).pending = [asmLine .le 0x1A [.fa 1]] ∧
    (decode (asmLine .le 0x1A [.fa 1]).cmd).toOption = some .rdoPackPps := by decide
/-- One command at the first illegal SEL of each of R84's sixteen clauses. -/
theorem witness_ReservedAndIllegalCommands :
    ∀ q ∈ [((0xC0 : Byte), 12), (0xC1, 12), (0x12, 1), (0x13, 1), (0x14, 1), (0x15, 1), (0x16, 1), (0x27, 2), (0x18, 1),
        (0x29, 2), (0x2A, 2), (0x1B, 1), (0x0C, 0), (0x0D, 0), (0x0E, 0), (0x0F, 0)],
      (queued std q.1 []).pending.map (fun t => (t.cmd.extractLsb' 4 4).toNat) = [q.2] ∧
      answers std q.1 [] = [.error .illegalOp] := by decide
theorem witness_StepWithNothingPending : (used State.reset).pending = [] := rfl
theorem witness_StepFrame_idle : step (used State.reset) = .next (used State.reset) := rfl
theorem witness_StepFrame : ∃ t, step (used (queued std 0x0A [.fa 1])) = .next t ∧ t.observed.length = 2 := ⟨_, rfl, rfl⟩
theorem witness_EveryStepKeepsAnswersSound : Sound (used (queued std 0x00 [.val 255])) ∧
    ∃ t, step (used (queued std 0x00 [.val 255])) = .next t ∧ t.observed.length = 2 := by
  refine ⟨fun a h => ?_, _, rfl, rfl⟩
  simp [used] at h
  subst h
  trivial
theorem witness_EarlierTransactionsLeaveNothing :
    (used (queued std 0x02 [])).cfg = (queued std 0x02 []).cfg ∧
    (used (queued std 0x02 [])).pending = (queued std 0x02 []).pending ∧ (queued std 0x02 []).pending ≠ [] ∧
    (used (queued std 0x02 [])).observed ≠ (queued std 0x02 []).observed := by decide
/-- The states differ on ports the operation does not read; for PDO_LIST_DEC and RDO_ENC, in the first byte after and the
last byte before the lanes read. -/
theorem witness_UnreadPortsHaveNoEffect :
    SamePortsRead .pdoPackFixed (onPorts std [.fa 7, .fc 1]).inp (onPorts std [.fa 7, .fc 2]).inp ∧
    SamePortsRead .unitDecStatV (onPorts std [.val 7, .cnt 1]).inp (onPorts std [.val 7, .cnt 2]).inp ∧
    SamePortsRead .statusDec (onPorts std [.payBytes [1, 2, 3, 4, 5]]).inp (onPorts std [.payBytes [1, 2, 3, 4, 6]]).inp ∧
    SamePortsRead .eventDec (onPorts std [.payBytes [1, 2, 3]]).inp (onPorts std [.payBytes [1, 2, 4]]).inp ∧
    SamePortsRead .pdoListDec (onPorts std [.cnt 1, .payBytes [1, 2, 3, 4, 5]]).inp
      (onPorts std [.cnt 1, .payBytes [1, 2, 3, 4, 6]]).inp ∧
    SamePortsRead .rdoEnc (onPorts std [.cnt 3, .pos 2, .payBytes [1, 2, 3, 4, 5, 6, 7, 8, 9]]).inp
      (onPorts std [.cnt 3, .pos 2, .payBytes [1, 2, 3, 5, 5, 6, 7, 8, 10]]).inp := by
  simp only [SamePortsRead]; decide
theorem witness_ErrorsEachOperationMayRaise :
    exec .pdoDec (onPorts std [.payLanes [0x80000000]]) =
      .next (answered (onPorts std [.payLanes [0x80000000]]) (.error (.unrecognizedVariant 0))) ∧
    exec .addrLookup (onPorts std [.val 0x1F]) =
      .next (answered (onPorts std [.val 0x1F]) (.error .unknownAddress)) := ⟨rfl, rfl⟩
/-- T97 on the ports: the request, its word and its bytes, the PPS half of `rdo_out` and every other output 0. -/
theorem test_request_ports : (match exec .rdoEnc (onPorts std [listL, .cnt 2, .pos 1, .reqI 500]) with
    | .next t => outPorts t
    | _ => none) =
    some { allZero with
      rdoOut := { kind := 0, fixed := ⟨50, 50, 1, 500, 500⟩, pps := ⟨0, 0, 0, 0, 0⟩ }
      wordOut := 0x1000C832, bytesOut := #v[0x32, 0xC8, 0x00, 0x10] } := by decide
theorem witness_UnitCodeThreeIsNeverDriven : ∃ t o, exec .unitDecStatT (onPorts std [.val 255]) = .next t ∧
    outPorts t = some o ∧ o.unitOut.unit = 2 := ⟨_, _, rfl, rfl, rfl⟩
theorem witness_PdoListWires :
    (List.replicate 7 (PdoRec.fixed ⟨0, 0, 0, 0⟩)).length = 7 ∧ ([] : List PdoRec).length ≤ 7 := by decide
theorem witness_ScaleIsAnExactProduct : ∀ r ∈ unitRows, (BitVec.ofNat 16 r.rawMax).toNat < 2 ^ r.width := by decide
theorem witness_ScaleAndUnscaleAreInverse : ∀ r ∈ unitRows,
    (unscale r.entry (BitVec.ofNat 16 r.physMax)).toOption = some r.rawMax := by decide
/-- The last raw value that fits and the first that does not, for each of the twelve fields. -/
theorem witness_UnitDec : ∀ r ∈ unitRows, (onPorts std [.val (BitVec.ofNat 16 r.rawMax)]).inp.val.toNat < 2 ^ r.width ∧
    2 ^ r.width ≤ (onPorts std [.val (BitVec.ofNat 16 (r.rawMax + 1))]).inp.val.toNat := by decide
/-- For each field: the physical maximum, the first exact value past it, and (but for the step of 1, which leaves no
remainder) a value off the step. -/
theorem witness_UnitEnc : ∀ r ∈ unitRows,
    (onPorts std [.val (BitVec.ofNat 16 r.physMax)]).inp.val.toNat = (BitVec.ofNat 16 r.rawMax).toNat * r.step ∧
    (onPorts std [.val (BitVec.ofNat 16 (r.physMax + r.step))]).inp.val.toNat % r.step = 0 ∧
    2 ^ r.width * r.step ≤ (onPorts std [.val (BitVec.ofNat 16 (r.physMax + r.step))]).inp.val.toNat ∧
    (r.step = 1 ∨ (onPorts std [.val (BitVec.ofNat 16 (r.physMax + 1))]).inp.val.toNat % r.step ≠ 0) := by decide
theorem witness_StatusFlagsAreIndependent : (onPorts std [.payBytes [0xF7]]).inp.pay[0] = 0xF7 := by decide
theorem witness_StatusReadingsAgree :
    exec .statusDec (onPorts std [.payBytes [0, 255, 255, 255]]) = .next (answered (onPorts std [.payBytes [0, 255, 255, 255]])
      (.ok (.status ⟨false, false, false, false, false, false, false, 255, 255, 255, 20400, 6120, 255⟩))) ∧
    (onPorts std [.val 255]).inp.val = (255 : Byte).setWidth 16 := ⟨rfl, rfl⟩
theorem witness_EventCodecRoundTrips :
    exec .eventEnc (onPorts std [.evIn ⟨true, false, false, false, false, true, false, false⟩]) =
      .next (answered (onPorts std [.evIn ⟨true, false, false, false, false, true, false, false⟩]) (.ok (.eventBytes 1 2))) ∧
    (onPorts std [.payBytes [1, 2]]).inp.pay[0] = 1 ∧ (onPorts std [.payBytes [1, 2]]).inp.pay[1] = 2 ∧
    exec .eventDec (onPorts std [.payBytes [0xF1, 2]]) = .next (answered (onPorts std [.payBytes [0xF1, 2]])
      (.ok (.events (onPorts std [.evIn ⟨true, false, false, false, false, true, false, false⟩]).inp.evIn))) :=
  ⟨rfl, rfl, rfl, rfl⟩
/-- A word of each kind of tag, under two builds. -/
theorem witness_PdoDecode : (0x3FFFFFFF#32).toNat / 2 ^ 30 = 0 ∧
    (0x40000000#32).toNat / 2 ^ 30 = (ppsTagBits std.ppsTag).toNat ∧
    (0xFFFFFFFF#32).toNat / 2 ^ 30 = (ppsTagBits tag11.ppsTag).toNat ∧
    (0x80000000#32).toNat / 2 ^ 30 ≠ (ppsTagBits std.ppsTag).toNat := by decide
theorem witness_PdoDec : (pdoDecode std (lane (onPorts std [.payLanes [0x40DC213C]]) 0)).isSome = true ∧
    pdoDecode std (lane (onPorts std [.payLanes [0x80000000]]) 0) = none ∧
    (lane (onPorts std [.payLanes [0x40DC213C]]) 0).extractLsb 31 30 = ppsTagBits std.ppsTag ∧
    (lane (onPorts bigEndian [.payLanes [0x3FF1912C]]) 0).extractLsb 31 30 = 0b00#2 := by decide
/-- No entry, seven entries, eight entries, and a failing seventh entry. -/
theorem witness_PdoListDec : (onPorts std [.cnt 0]).inp.cnt.toNat = 0 ∧
    (∀ k < 7, pdoDecode std (lane (onPorts std [.cnt 7]) k) ≠ none) ∧ (onPorts std [.cnt 7]).inp.cnt.toNat = 7 ∧
    7 < (onPorts std [.cnt 8]).inp.cnt.toNat ∧
    pdoDecode std (lane (onPorts std [.cnt 7, .payLanes [0, 0, 0, 0, 0, 0, 0x80000000]]) 6) = none ∧
    (∀ j < 6, pdoDecode std (lane (onPorts std [.cnt 7, .payLanes [0, 0, 0, 0, 0, 0, 0x80000000]]) j) ≠ none) := by
  decide
/-- Every field at its last value that fits, and each alone at the first that does not. -/
theorem witness_PdoPack : (onPorts std [.fa 1023, .fb 1023]).inp.fa.toNat < 2 ^ 10 ∧
    2 ^ 10 ≤ (onPorts std [.fb 1024]).inp.fb.toNat ∧ (onPorts std [.fa 127, .fb 255, .fc 255, .fd 3]).inp.fd.toNat < 2 ^ 2 ∧
    2 ^ 7 ≤ (onPorts std [.fa 128]).inp.fa.toNat ∧ 2 ^ 8 ≤ (onPorts std [.fb 256]).inp.fb.toNat ∧
    2 ^ 8 ≤ (onPorts std [.fc 256]).inp.fc.toNat ∧ 2 ^ 2 ≤ (onPorts std [.fd 4]).inp.fd.toNat := by decide
theorem witness_PdoRoundTrips : WellFormedPdo std 0x0001912C ∧ WellFormedPdo std 0x71FEFF7F ∧
    (pdoDecode std 0x3FF1912C).isSome = true ∧ PdoScaled (.pps ⟨127, 255, 255, 3, 6350, 25500, 25500⟩) ∧
    2 ≤ ((0x80000000#32).extractLsb 31 30).toNat := by
  refine ⟨.inl (by decide), .inr (by decide), by decide, ⟨by decide, by decide, by decide⟩, by decide⟩
/-- A minimum voltage above the maximum, with sub-type 3. -/
theorem witness_PpsFieldsAreCarried :
    exec .pdoPackPps (onPorts std [.fa 1, .fb 255, .fc 0, .fd 3]) = .next (answered
      (onPorts std [.fa 1, .fb 255, .fc 0, .fd 3]) (.ok (.packed 0x7000FF01 #v[0x01, 0xFF, 0x00, 0x70]))) ∧
    (onPorts std [.fa 1, .fb 255, .fc 0, .fd 3]).inp.fb = (255 : Byte).setWidth 16 ∧
    (∀ j : Fin 4, (onPorts std [.payLanes [0x7000FF01]]).inp.pay[j.val] = #v[(0x01 : Byte), 0xFF, 0x00, 0x70][j.val]) :=
  ⟨rfl, rfl, by decide⟩
/-- The last position of a full list, a current equal to the maximum and a current of 0. -/
theorem witness_RdoEncFixed :
    pdoDecode std (lane (onPorts std [.cnt 7, .pos 7, .reqI 1000, .payLanes [0, 0, 0, 0, 0, 0, 0x00019064]]) 6) =
      some (.fixed ⟨100, 100, 1000, 5000⟩) ∧
    (onPorts std [.cnt 7, .pos 7, .reqI 1000]).inp.pos.toNat = 7 ∧
    (onPorts std [.cnt 7, .pos 7, .reqI 1000]).inp.reqI.toNat = 10 * 100 ∧
    (onPorts std [.cnt 1, .pos 1, .reqI 0]).inp.reqI.toNat = 10 * 0 := by decide
/-- Both ends of the voltage band and the current's maximum. -/
theorem witness_RdoEncPps :
    pdoDecode std (lane (onPorts std [listL, .cnt 2, .pos 2, .reqI 3000, .reqV 3300]) 1) =
      some (.pps ⟨60, 33, 110, 0, 3000, 3300, 11000⟩) ∧
    (onPorts std [listL, .cnt 2, .pos 2, .reqI 3000, .reqV 3300]).inp.reqI.toNat = 50 * 60 ∧
    (onPorts std [listL, .cnt 2, .pos 2, .reqI 3000, .reqV 3300]).inp.reqV.toNat = 20 * 165 ∧ 33 * 100 = 20 * 165 ∧
    (onPorts std [listL, .cnt 2, .pos 2, .reqI 3000, .reqV 11000]).inp.reqV.toNat = 20 * 550 ∧ 20 * 550 = 110 * 100 := by
  decide
/-- Each clause of the error order, one value past what is accepted. -/
theorem witness_RdoEncErrors : 7 < (onPorts std [.cnt 8]).inp.cnt.toNat ∧
    (onPorts std [.cnt 7, .pos 0]).inp.pos.toNat = 0 ∧
    (onPorts std [.cnt 7, .pos 8]).inp.cnt.toNat < (onPorts std [.cnt 7, .pos 8]).inp.pos.toNat ∧
    pdoDecode std (lane (onPorts std [.cnt 1, .pos 1, .payLanes [0x80000000]]) 0) = none ∧
    (onPorts std [listL, .cnt 2, .pos 1, .reqI 505]).inp.reqI.toNat % 10 ≠ 0 ∧
    100 * 10 < (onPorts std [listL, .cnt 2, .pos 1, .reqI 1010]).inp.reqI.toNat ∧
    (onPorts std [listL, .cnt 2, .pos 2, .reqI 2000, .reqV 3290]).inp.reqV.toNat % 20 ≠ 0 ∧
    60 * 50 < (onPorts std [listL, .cnt 2, .pos 2, .reqI 3050, .reqV 5000]).inp.reqI.toNat ∧
    (onPorts std [listL, .cnt 2, .pos 2, .reqI 2000, .reqV 3280]).inp.reqV.toNat < 33 * 100 ∧
    110 * 100 < (onPorts std [listL, .cnt 2, .pos 2, .reqI 2000, .reqV 11020]).inp.reqV.toNat := by decide
theorem witness_RdoEncNeverClamps :
    exec .rdoEnc (onPorts std [listL, .cnt 2, .pos 2, .reqI 2000, .reqV 3300]) = .next (answered
      (onPorts std [listL, .cnt 2, .pos 2, .reqI 2000, .reqV 3300])
      (.ok (.request (.pps ⟨40, 165, 2, 2000, 3300⟩) 0x20014A28 #v[0x28, 0x4A, 0x01, 0x20]))) := rfl
theorem witness_RdoPack : (onPorts std [.fa 1023, .fb 1023, .fc 7]).inp.fc.toNat < 2 ^ 3 ∧
    2 ^ 10 ≤ (onPorts std [.fa 1024]).inp.fa.toNat ∧ 2 ^ 3 ≤ (onPorts std [.fc 8]).inp.fc.toNat ∧
    (onPorts std [.fa 127, .fb 2047, .fc 7]).inp.fb.toNat < 2 ^ 11 ∧ 2 ^ 7 ≤ (onPorts std [.fa 128]).inp.fa.toNat ∧
    2 ^ 11 ≤ (onPorts std [.fb 2048]).inp.fb.toNat := by decide
theorem witness_RdoRoundTrips : WellFormedRdo .fixed 0x700FFFFF ∧ WellFormedRdo .pps 0x700FFE7F ∧
    RdoScaled (.fixed ⟨1023, 1023, 7, 10230, 10230⟩) ∧ RdoScaled (.pps ⟨127, 2047, 7, 6350, 40940⟩) := by
  refine ⟨?_, ?_, ⟨by decide, by decide⟩, ⟨by decide, by decide⟩⟩ <;> (unfold WellFormedRdo; decide)
theorem witness_ReservedBits : (0x3FF00000#32).extractLsb 31 30 = 0b00#2 ∧
    (0x4E010080#32).extractLsb 31 30 = ppsTagBits std.ppsTag ∧
    (onPorts std [.payBytes [0x08]]).inp.pay[0] &&& 0xF7 = (onPorts std []).inp.pay[0] &&& 0xF7 ∧
    (onPorts std [.payBytes [0xF0, 0xF0]]).inp.pay[1] &&& 0x0F = (onPorts std []).inp.pay[1] &&& 0x0F ∧
    (answers std 0x07 [.fa 1]).length = 1 := by decide
theorem witness_ReservedBits_on_encode :
    exec .pdoPackPps (onPorts std [.fa 127, .fb 255, .fc 255, .fd 3]) = .next (answered
      (onPorts std [.fa 127, .fb 255, .fc 255, .fd 3]) (.ok (.packed 0x71FEFF7F #v[0x7F, 0xFF, 0xFE, 0x71]))) ∧
    exec .rdoPackFixed (onPorts std [.fa 1023, .fb 1023, .fc 7]) = .next (answered
      (onPorts std [.fa 1023, .fb 1023, .fc 7]) (.ok (.packed 0x700FFFFF #v[0xFF, 0xFF, 0x0F, 0x70]))) := ⟨rfl, rfl⟩
theorem witness_AddrLookup : (∀ row ∈ romRows, (onPorts std [.val (BitVec.ofNat 16 row.1)]).inp.val.toNat = row.1) ∧
    (onPorts std [.val 0x1F]).inp.val.toNat ∉ romRows.map Prod.fst ∧
    (onPorts std [.val 0x100]).inp.val.toNat ∉ romRows.map Prod.fst := by decide
theorem witness_EveryRegisterHasItsDecoder : (addrRom 0x1C).isSome = true ∧ (addrRom 0x30).isSome = true := by decide

end Sys2Proof.Tests
end

section
/-! SUPPORT. The host's run (R12, R21, R60): the answer of a command as a function of the configuration and the
transaction alone, what a step with a transaction pending does, and from these what a whole run does. -/

namespace Sys2Proof.Machine

/-- The answer of a command. It reads no observation and no pending transaction, so it can depend on neither (R12, R20);
`exec_eq_complete` ties it to `exec`. -/
def execAnswer (i : Instr) (c : Config) (p : InPorts) : Answer :=
  match i with
  | .unitDecStatV => unitDec .statV p.val
  | .unitDecStatI => unitDec .statI p.val
  | .unitDecStatT => unitDec .statT p.val
  | .unitDecPdoFixI => unitDec .pdoFixI p.val
  | .unitDecPdoFixV => unitDec .pdoFixV p.val
  | .unitDecPdoPpsI => unitDec .pdoPpsI p.val
  | .unitDecPdoPpsVmin => unitDec .pdoPpsVmin p.val
  | .unitDecPdoPpsVmax => unitDec .pdoPpsVmax p.val
  | .unitDecRdoFixImax => unitDec .rdoFixImax p.val
  | .unitDecRdoFixIop => unitDec .rdoFixIop p.val
  | .unitDecRdoPpsIop => unitDec .rdoPpsIop p.val
  | .unitDecRdoPpsV => unitDec .rdoPpsV p.val
  | .unitEncStatV => unitEnc .statV p.val
  | .unitEncStatI => unitEnc .statI p.val
  | .unitEncStatT => unitEnc .statT p.val
  | .unitEncPdoFixI => unitEnc .pdoFixI p.val
  | .unitEncPdoFixV => unitEnc .pdoFixV p.val
  | .unitEncPdoPpsI => unitEnc .pdoPpsI p.val
  | .unitEncPdoPpsVmin => unitEnc .pdoPpsVmin p.val
  | .unitEncPdoPpsVmax => unitEnc .pdoPpsVmax p.val
  | .unitEncRdoFixImax => unitEnc .rdoFixImax p.val
  | .unitEncRdoFixIop => unitEnc .rdoFixIop p.val
  | .unitEncRdoPpsIop => unitEnc .rdoPpsIop p.val
  | .unitEncRdoPpsV => unitEnc .rdoPpsV p.val
  | .statusDec => .ok (.status (statusDecode p.pay))
  | .eventDec => .ok (.events (eventDecode p.pay))
  | .eventEnc => .ok (.eventBytes (negotiationByte p.evIn) (protectionByte p.evIn))
  | .pdoDec => pdoDec c p.pay
  | .pdoListDec => pdoListDec c p.pay p.cnt
  | .pdoPackFixed => pdoPackFixedOp c p.fa p.fb
  | .pdoPackPps => pdoPackPpsOp c p.fa p.fb p.fc p.fd
  | .rdoEnc => rdoEnc c p.pay p.cnt p.pos p.reqI p.reqV
  | .rdoDecFixed => rdoDec c .fixed p.pay
  | .rdoDecPps => rdoDec c .pps p.pay
  | .rdoPackFixed => rdoPackFixedOp c p.fa p.fb p.fc
  | .rdoPackPps => rdoPackPpsOp c p.fa p.fb p.fc
  | .addrLookup => addrLookup p.val

/-- Every arm of `exec` is one `complete`, of the answer of its command. -/
theorem exec_eq_complete (i : Instr) (s : State) : exec i s = complete s (execAnswer i s.cfg s.inp) := by
  cases i <;> rfl

/-- Every command completes, and only the observation changes. -/
theorem exec_eq_record (i : Instr) (s : State) : exec i s = .next (s.record (execAnswer i s.cfg s.inp)) := by
  rw [exec_eq_complete, complete_eq]

/-- The answer to a transaction: its command's, or IllegalOp where the command byte decodes to none (R84). -/
def stepAnswer (c : Config) (p : InPorts) : Answer :=
  match decode p.cmd with
  | .ok i => execAnswer i c p
  | .error _ => .error .illegalOp

/-- A step with a transaction pending presents it and records its answer. -/
theorem step_of_pending_cons {s : State} {t : InPorts} {ts : List InPorts} (h : s.pending = t :: ts) :
    step s = .next ((s.present t ts).record (stepAnswer s.cfg t)) := by
  simp only [step, fetch_of_pending_cons h, present_inp, stepAnswer]
  cases decode t.cmd with
  | ok i => exact exec_eq_record i (s.present t ts)
  | error _ => exact execIllegal_eq (s.present t ts)

/-- A step that ends in a next state leaves the rest of the run to that state. -/
theorem run_succ_of_step {s t : State} (k : Nat) (h : step s = .next t) :
    Host.Core.run core (k + 1) s = Host.Core.run core k t := by
  have hcore : core.step s = .next t := h
  simp only [Host.Core.run, hcore]

/-- The run over a host's sequence `ts`, by induction on it: each step takes the head and the rest runs from the state
that the step leaves. -/
theorem run_of_pending {s : State} {ts : List InPorts} (h : s.pending = ts) :
    Host.Core.run core ts.length s =
      .next { cfg := s.cfg, inp := ts.getLast?.getD s.inp, pending := [],
              observed := s.observed ++ ts.map (stepAnswer s.cfg) } := by
  induction ts generalizing s with
  | nil =>
    obtain ⟨c, p, pending, answers⟩ := s
    subst h
    simp [Host.Core.run]
  | cons t ts ih =>
    calc Host.Core.run core (ts.length + 1) s
      _ = Host.Core.run core ts.length ((s.present t ts).record (stepAnswer s.cfg t)) :=
        run_succ_of_step ts.length (step_of_pending_cons h)
      _ = _ := by simp [ih (s := (s.present t ts).record (stepAnswer s.cfg t)) rfl, List.getLast?_cons]

/-- Settles O9: the run over what is pending, with `stepAnswer` as the answer to each transaction. -/
theorem hostRunAnswersEachTransactionInOrder : Obligations.HostRunAnswersEachTransactionInOrder :=
  ⟨stepAnswer, fun _ => run_of_pending rfl⟩

end Sys2Proof.Machine
end

section
/-! SUPPORT. What a step can do, said once, and how the answers of one step relate to the state before it. -/

namespace Sys2Proof.Machine

/-- A step with nothing pending changes nothing (R241; assumption log 2). -/
theorem step_of_pending_nil {s : State} (h : s.pending = []) : step s = .next s := by
  simp only [step, fetch_of_pending_nil h, idle]

/-- Every next state of a step: the same state where nothing is pending, else the state with the first pending
transaction presented and its answer recorded. -/
theorem step_next_cases {s t : State} (h : step s = .next t) :
    (s.pending = [] ∧ t = s) ∨
    ∃ p ps, s.pending = p :: ps ∧ t = (s.present p ps).record (stepAnswer s.cfg p) := by
  cases hp : s.pending with
  | nil =>
    rw [step_of_pending_nil hp] at h
    cases h
    exact .inl ⟨rfl, rfl⟩
  | cons p ps =>
    rw [step_of_pending_cons hp] at h
    cases h
    exact .inr ⟨p, ps, rfl, rfl⟩

/-- A pending transaction whose word is a command is answered by that command. -/
theorem stepAnswer_of_decode {c : Config} {p : InPorts} {i : Instr} (h : decode p.cmd = .ok i) :
    stepAnswer c p = execAnswer i c p := by
  simp only [stepAnswer, h]

/-- The word of a command decodes to it. -/
theorem decode_encode (i : Instr) : decode (encode i) = .ok i := by
  cases i <;> rfl

/-- Eight bits of fetch word hold a whole command byte. -/
theorem withFetchWord_eight_pending (s : State) (b : Byte) :
    (s.withFetchWord 8 b.toNat).pending = { s.pending.headD s.inp with cmd := b } :: s.pending.tail := by
  have hb : BitVec.ofNat 8 (b.toNat % 2 ^ 8) = b := BitVec.eq_of_toNat_eq (by simp [b.isLt])
  rw [State.withFetchWord, hb]

/-- One more answer keeps the observation sound exactly when that answer is sound. -/
theorem sound_record {s : State} {a : Answer} : Sound (s.record a) ↔ Sound s ∧ AnswerSound s.cfg a := by
  simp [Sound, or_imp, forall_and]

/-- Presenting a transaction does not touch the observation. -/
theorem sound_present {s : State} {p : InPorts} {ps : List InPorts} : Sound (s.present p ps) ↔ Sound s := Iff.rfl

end Sys2Proof.Machine
end

section
/-! SUPPORT. Reserved bits and tags of the packed words (R77 to R80, R82). Each mask is split at the same places as its
word's layout, so that the conjunction is taken field by field. -/

namespace Sys2Proof.Machine

theorem pdoPackFixed_reserved (i v : BitVec 10) : pdoPackFixed i v &&& fixedPdoReserved = 0 := by
  change (0b00#2 ++ 0#10 ++ v ++ i) &&& (0#2 ++ BitVec.allOnes 10 ++ 0#10 ++ 0#10) = 0
  simp only [BitVec.and_append, BitVec.zero_and, BitVec.and_zero]
  rfl

theorem pdoPackPps_reserved (c : Config) (i : BitVec 7) (lo hi : BitVec 8) (a : BitVec 2) :
    pdoPackPps c i lo hi a &&& ppsPdoReserved = 0 := by
  change (ppsTagBits c.ppsTag ++ a ++ 0#3 ++ hi ++ 0#1 ++ lo ++ 0#1 ++ i) &&&
    (0#2 ++ 0#2 ++ BitVec.allOnes 3 ++ 0#8 ++ BitVec.allOnes 1 ++ 0#8 ++ BitVec.allOnes 1 ++ 0#7) = 0
  simp only [BitVec.and_append, BitVec.zero_and, BitVec.and_zero]
  rfl

theorem rdoPackFixed_wellFormed (m o : BitVec 10) (p : BitVec 3) : WellFormedRdo .fixed (rdoPackFixed m o p) := by
  change (0#1 ++ p ++ 0#8 ++ o ++ m) &&& (BitVec.allOnes 1 ++ 0#3 ++ BitVec.allOnes 8 ++ 0#10 ++ 0#10) = 0
  simp only [BitVec.and_append, BitVec.zero_and, BitVec.and_zero]
  rfl

theorem rdoPackPps_wellFormed (o : BitVec 7) (v : BitVec 11) (p : BitVec 3) :
    WellFormedRdo .pps (rdoPackPps o v p) := by
  change (0#1 ++ p ++ 0#8 ++ v ++ 0#2 ++ o) &&&
    (BitVec.allOnes 1 ++ 0#3 ++ BitVec.allOnes 8 ++ 0#11 ++ BitVec.allOnes 2 ++ 0#7) = 0
  simp only [BitVec.and_append, BitVec.zero_and, BitVec.and_zero]
  rfl

theorem pdoTag_pdoPackFixed (i v : BitVec 10) : pdoTag (pdoPackFixed i v) = 0b00#2 := by
  apply BitVec.eq_of_toNat_eq
  rw [pdoTag_toNat, pdoPackFixed_toNat]
  simp; omega

theorem pdoTag_pdoPackPps (c : Config) (i : BitVec 7) (lo hi : BitVec 8) (a : BitVec 2) :
    pdoTag (pdoPackPps c i lo hi a) = ppsTagBits c.ppsTag := by
  apply BitVec.eq_of_toNat_eq
  rw [pdoTag_toNat, pdoPackPps_toNat]
  omega

theorem pdoPackFixed_wellFormed (c : Config) (i v : BitVec 10) : WellFormedPdo c (pdoPackFixed i v) :=
  .inl ⟨pdoTag_pdoPackFixed i v, pdoPackFixed_reserved i v⟩

theorem pdoPackPps_wellFormed (c : Config) (i : BitVec 7) (lo hi : BitVec 8) (a : BitVec 2) :
    WellFormedPdo c (pdoPackPps c i lo hi a) :=
  .inr ⟨pdoTag_pdoPackPps c i lo hi a, pdoPackPps_reserved c i lo hi a⟩

theorem rdoVariant_rdoDecode (v : Variant) (w : Word32) : rdoVariant (rdoDecode v w) = v := by
  cases v <;> rfl

/-- The object position of a decoded request is bits 30:28 of its word, in both layouts (R79, R80). -/
theorem rdoObjPos_rdoDecode (v : Variant) (w : Word32) : rdoObjPos (rdoDecode v w) = w.extractLsb' 28 3 := by
  cases v <;> rfl

theorem rdoPackFixed_objPos (m o : BitVec 10) (p : BitVec 3) : (rdoPackFixed m o p).extractLsb' 28 3 = p := by
  apply BitVec.eq_of_toNat_eq
  rw [field_toNat, rdoPackFixed_toNat]
  omega

theorem rdoPackPps_objPos (o : BitVec 7) (v : BitVec 11) (p : BitVec 3) :
    (rdoPackPps o v p).extractLsb' 28 3 = p := by
  apply BitVec.eq_of_toNat_eq
  rw [field_toNat, rdoPackPps_toNat]
  omega

/-- A flag placed below bit 4 leaves the high half of its byte zero. -/
theorem flagBit_high_half (b : Bool) {n : Nat} (h : n < 4) : flagBit b n &&& 0xF0#8 = 0#8 := by
  cases b
  · simp [flagBit]
  · interval_cases n <;> rfl

theorem negotiationByte_reserved (e : EventRec) : negotiationByte e &&& 0xF0#8 = 0#8 := by
  simp [negotiationByte, BitVec.and_or_distrib_right, flagBit_high_half]

theorem protectionByte_reserved (e : EventRec) : protectionByte e &&& 0xF0#8 = 0#8 := by
  simp [protectionByte, BitVec.and_or_distrib_right, flagBit_high_half]

end Sys2Proof.Machine
end

section
/-! SUPPORT. What each operation can answer on success: one inversion lemma an operation, its guards turned into facts
about the result. -/

namespace Sys2Proof.Machine

variable {c : Config} {r : Result}

theorem unitDec_ok {i : LutIndex} {v : Word16} (h : unitDec i v = .ok r) : ∃ u, r = .unit u ∧ UnitScaled u := by
  unfold unitDec at h
  split at h
  · cases h
  · rename_i hfits
    cases h
    have hfits : v.toNat < 2 ^ (lut i).width := by simpa [rawLimit] using hfits
    exact ⟨_, rfl, i, hfits, scale_of_fits i v hfits, rfl⟩

theorem unitEnc_ok {i : LutIndex} {v : Word16} (h : unitEnc i v = .ok r) : ∃ u, r = .unit u ∧ UnitScaled u := by
  obtain ⟨-, herr⟩ | ⟨-, -, herr⟩ | ⟨hexact, hfits, hok⟩ := unscale_cases i v
  · simp [unitEnc, herr] at h
  · simp [unitEnc, herr] at h
  · simp only [unitEnc, hok, Except.ok.injEq] at h
    have hraw : (BitVec.ofNat 16 (v.toNat / (lut i).step)).toNat = v.toNat / (lut i).step := by
      rw [BitVec.toNat_ofNat, Nat.mod_eq_of_lt (Nat.lt_of_le_of_lt (Nat.div_le_self _ _) v.isLt)]
    refine ⟨_, h.symm, i, ?_, ?_, rfl⟩
    · rw [hraw]
      exact hfits
    · rw [hraw, Nat.div_mul_cancel (Nat.dvd_of_mod_eq_zero hexact)]

theorem statusDecode_scaled (pay : Vector Byte 28) : StatusScaled (statusDecode pay) :=
  ⟨scale_of_width .statV _ rfl, scale_of_width .statI _ rfl,
    (scale_of_width .statT _ rfl).trans (Nat.mul_one _)⟩

theorem pdoDecode_scaled {w : Word32} {e : PdoRec} (h : pdoDecode c w = some e) : PdoScaled e := by
  obtain ⟨-, hd⟩ | ⟨-, -, hd⟩ | ⟨-, -, hd⟩ := pdoDecode_cases c w
  · cases hd.symm.trans h
    exact fixedPdoOf_scaled w
  · cases hd.symm.trans h
    exact ppsPdoOf_scaled w
  · cases hd.symm.trans h

/-- Every entry of a decoded list is the decoding of some word. -/
theorem decodeWords_scaled {ws : List Word32} {k : Nat} {es : List PdoRec} (h : decodeWords c k ws = .ok es) :
    ∀ e ∈ es, PdoScaled e := by
  intro e he
  have hmem : some e ∈ ws.map (pdoDecode c) := by
    rw [(decodeWords_ok_iff c ws k es).mp h]
    exact List.mem_map_of_mem he
  obtain ⟨w, -, hw⟩ := List.mem_map.mp hmem
  exact pdoDecode_scaled hw

theorem pdoDec_ok {pay : Vector Byte 28} (h : pdoDec c pay = .ok r) : ∃ e, r = .pdos [e] ∧ PdoScaled e := by
  unfold pdoDec at h
  split at h
  · rename_i e he
    cases h
    exact ⟨e, rfl, pdoDecode_scaled he⟩
  · cases h

theorem pdoListDec_ok {pay : Vector Byte 28} {cnt : Byte} (h : pdoListDec c pay cnt = .ok r) :
    ∃ es, r = .pdos es ∧ es.length ≤ 7 ∧ ∀ e ∈ es, PdoScaled e := by
  unfold pdoListDec at h
  split at h
  · cases h
  · rename_i hcnt
    split at h
    · rename_i es hes
      cases h
      have hlen : es.length = cnt.toNat := by simpa [laneWords] using decodeWords_length hes
      exact ⟨es, rfl, by rw [hlen]; exact Nat.le_of_not_lt hcnt, decodeWords_scaled hes⟩
    · cases h

theorem pdoPackFixedOp_ok {fa fb : Word16} (h : pdoPackFixedOp c fa fb = .ok r) :
    ∃ w, r = packedWord c w ∧ WellFormedPdo c w := by
  unfold pdoPackFixedOp at h
  split at h
  · cases h
  · cases h
    exact ⟨_, rfl, pdoPackFixed_wellFormed c _ _⟩

theorem pdoPackPpsOp_ok {fa fb fc fd : Word16} (h : pdoPackPpsOp c fa fb fc fd = .ok r) :
    ∃ w, r = packedWord c w ∧ WellFormedPdo c w := by
  unfold pdoPackPpsOp at h
  split at h
  · cases h
  · cases h
    exact ⟨_, rfl, pdoPackPps_wellFormed c _ _ _ _⟩

theorem rdoPackFixedOp_ok {fa fb fc : Word16} (h : rdoPackFixedOp c fa fb fc = .ok r) :
    ∃ w, r = packedWord c w ∧ WellFormedRdo .fixed w := by
  unfold rdoPackFixedOp at h
  split at h
  · cases h
  · cases h
    exact ⟨_, rfl, rdoPackFixed_wellFormed _ _ _⟩

theorem rdoPackPpsOp_ok {fa fb fc : Word16} (h : rdoPackPpsOp c fa fb fc = .ok r) :
    ∃ w, r = packedWord c w ∧ WellFormedRdo .pps w := by
  unfold rdoPackPpsOp at h
  split at h
  · cases h
  · cases h
    exact ⟨_, rfl, rdoPackPps_wellFormed _ _ _⟩

theorem requestFixed_ok {e : FixedPdo} {pos : Byte} {reqI : Word16} (h : requestFixed c e pos reqI = .ok r) :
    ∃ w, r = requestOf c .fixed w ∧ WellFormedRdo .fixed w ∧ w.extractLsb' 28 3 = pos.setWidth 3 := by
  obtain ⟨-, hr⟩ | ⟨-, -, hr⟩ | ⟨-, -, hr⟩ := requestFixed_cases c e pos reqI
  · cases hr.symm.trans h
  · cases hr.symm.trans h
  · cases hr.symm.trans h
    exact ⟨_, rfl, rdoPackFixed_wellFormed _ _ _, rdoPackFixed_objPos _ _ _⟩

theorem requestPps_ok {e : PpsPdo} {pos : Byte} {reqI reqV : Word16} (h : requestPps c e pos reqI reqV = .ok r) :
    ∃ w, r = requestOf c .pps w ∧ WellFormedRdo .pps w ∧ w.extractLsb' 28 3 = pos.setWidth 3 := by
  obtain ⟨-, hr⟩ | ⟨-, -, -, hr⟩ | ⟨-, -, -, -, -, hr⟩ := requestPps_cases c e pos reqI reqV
  · cases hr.symm.trans h
  · cases hr.symm.trans h
  · cases hr.symm.trans h
    exact ⟨_, rfl, rdoPackPps_wellFormed _ _ _, rdoPackPps_objPos _ _ _⟩

/-- A position that RDO_ENC accepts is 1 to 7, so its three-bit field is not 0. -/
theorem rdoEnc_ok {pay : Vector Byte 28} {cnt pos : Byte} {reqI reqV : Word16}
    (h : rdoEnc c pay cnt pos reqI reqV = .ok r) :
    ∃ v w, r = requestOf c v w ∧ WellFormedRdo v w ∧ w.extractLsb' 28 3 ≠ 0 := by
  unfold rdoEnc at h
  split at h
  · cases h
  rename_i hcnt
  split at h
  · cases h
  rename_i hpos
  have hfield : pos.setWidth 3 ≠ 0#3 := by
    intro hz
    have := congrArg BitVec.toNat hz
    simp only [nMax, BitVec.toNat_setWidth, BitVec.toNat_ofNat] at this hcnt
    omega
  split at h
  · cases h
  · obtain ⟨w, hr, hwf, hw⟩ := requestFixed_ok h
    exact ⟨.fixed, w, hr, hwf, hw ▸ hfield⟩
  · obtain ⟨w, hr, hwf, hw⟩ := requestPps_ok h
    exact ⟨.pps, w, hr, hwf, hw ▸ hfield⟩

theorem addrLookup_ok {v : Word16} (h : addrLookup v = .ok r) : ∃ a x, r = .addr x ∧ addrRom a = some x := by
  unfold addrLookup at h
  split at h
  · cases h
  · split at h
    · rename_i x hx
      cases h
      exact ⟨_, x, rfl, hx⟩
    · cases h

end Sys2Proof.Machine
end

section
/-! The invariant of a run (R30 to R35, R82, R110, R154, R175): every command's answer is sound, so every step keeps the
observation sound. -/

namespace Sys2Proof.Machine

variable {c : Config} {r : Result}

theorem packedWord_sound_of_pdo {w : Word32} (h : WellFormedPdo c w) : ResultSound c (packedWord c w) :=
  ⟨.inl h, rfl⟩

theorem packedWord_sound_of_rdo {v : Variant} {w : Word32} (h : WellFormedRdo v w) :
    ResultSound c (packedWord c w) := by
  cases v with
  | fixed => exact ⟨.inr (.inl h), rfl⟩
  | pps => exact ⟨.inr (.inr h), rfl⟩

theorem requestOf_sound {v : Variant} {w : Word32} (hw : WellFormedRdo v w) (hp : w.extractLsb' 28 3 ≠ 0) :
    ResultSound c (requestOf c v w) := by
  refine ⟨rdoDecode_scaled v w, ?_, ?_, ?_, rfl⟩
  · rw [rdoVariant_rdoDecode]
  · rwa [rdoVariant_rdoDecode]
  · rwa [rdoObjPos_rdoDecode]

/-- The result of every command is sound for the build. -/
theorem execAnswer_ok_sound {i : Instr} {p : InPorts} (h : execAnswer i c p = .ok r) : ResultSound c r := by
  cases i with
  | unitDecStatV | unitDecStatI | unitDecStatT | unitDecPdoFixI | unitDecPdoFixV | unitDecPdoPpsI | unitDecPdoPpsVmin
  | unitDecPdoPpsVmax | unitDecRdoFixImax | unitDecRdoFixIop | unitDecRdoPpsIop | unitDecRdoPpsV =>
    obtain ⟨u, rfl, hu⟩ := unitDec_ok h
    exact hu
  | unitEncStatV | unitEncStatI | unitEncStatT | unitEncPdoFixI | unitEncPdoFixV | unitEncPdoPpsI | unitEncPdoPpsVmin
  | unitEncPdoPpsVmax | unitEncRdoFixImax | unitEncRdoFixIop | unitEncRdoPpsIop | unitEncRdoPpsV =>
    obtain ⟨u, rfl, hu⟩ := unitEnc_ok h
    exact hu
  | statusDec => cases h; exact statusDecode_scaled p.pay
  | eventDec => cases h; trivial
  | eventEnc => cases h; exact ⟨negotiationByte_reserved p.evIn, protectionByte_reserved p.evIn⟩
  | pdoDec =>
    obtain ⟨e, rfl, he⟩ := pdoDec_ok h
    exact ⟨by simp, by simpa using he⟩
  | pdoListDec =>
    obtain ⟨es, rfl, hes⟩ := pdoListDec_ok h
    exact hes
  | pdoPackFixed =>
    obtain ⟨w, rfl, hw⟩ := pdoPackFixedOp_ok h
    exact packedWord_sound_of_pdo hw
  | pdoPackPps =>
    obtain ⟨w, rfl, hw⟩ := pdoPackPpsOp_ok h
    exact packedWord_sound_of_pdo hw
  | rdoEnc =>
    obtain ⟨v, w, rfl, hw, hp⟩ := rdoEnc_ok h
    exact requestOf_sound hw hp
  | rdoDecFixed => cases h; exact rdoDecode_scaled .fixed _
  | rdoDecPps => cases h; exact rdoDecode_scaled .pps _
  | rdoPackFixed =>
    obtain ⟨w, rfl, hw⟩ := rdoPackFixedOp_ok h
    exact packedWord_sound_of_rdo hw
  | rdoPackPps =>
    obtain ⟨w, rfl, hw⟩ := rdoPackPpsOp_ok h
    exact packedWord_sound_of_rdo hw
  | addrLookup =>
    obtain ⟨a, x, rfl, hx⟩ := addrLookup_ok h
    exact ⟨a, hx⟩

theorem execAnswer_sound (i : Instr) (c : Config) (p : InPorts) : AnswerSound c (execAnswer i c p) := by
  cases h : execAnswer i c p with
  | error e => trivial
  | ok r => exact execAnswer_ok_sound h

theorem stepAnswer_sound (c : Config) (p : InPorts) : AnswerSound c (stepAnswer c p) := by
  unfold stepAnswer
  split
  · exact execAnswer_sound _ c p
  · trivial

/-- Settles O11: an idle step changes nothing, and any other adds one answer, which is sound. -/
theorem everyStepKeepsAnswersSound : Obligations.EveryStepKeepsAnswersSound := by
  intro s t hs hstep
  obtain ⟨-, rfl⟩ | ⟨p, ps, -, rfl⟩ := step_next_cases hstep
  · exact hs
  · exact sound_record.mpr ⟨sound_present.mpr hs, stepAnswer_sound s.cfg p⟩

end Sys2Proof.Machine
end

section
/-! Determinism and frame of a step, and which command it runs (R12, R20, R21, R26, R70). -/

open Sys2Proof.Claims

namespace Sys2Proof.Machine

/-- Settles O8, with `execAnswer` as the function. -/
theorem answersDependOnInputsAlone : Obligations.AnswersDependOnInputsAlone :=
  ⟨execAnswer, exec_eq_record⟩

/-- Settles O10, by what a step can do: nothing, or present one transaction and record one answer. -/
theorem stepFrame : Obligations.StepFrame := by
  intro s t hstep
  obtain ⟨hnone, rfl⟩ | ⟨p, ps, hp, rfl⟩ := step_next_cases hstep
  · simp [hnone]
  · refine ⟨rfl, by simp [hp], by simp [hp], ⟨_, rfl⟩, ?_⟩
    simp only [hp, record_observed, record_pending, present_observed, present_pending, List.length_append,
      List.length_cons, List.length_nil]
    omega

/-- A step on a pending transaction whose word decodes to `i` executes `i` with that transaction presented. -/
theorem step_eq_exec {s : State} {p : InPorts} {ps : List InPorts} {i : Instr} (hp : s.pending = p :: ps)
    (hi : decode p.cmd = .ok i) : step s = exec i (s.present p ps) := by
  rw [step_of_pending_cons hp, stepAnswer_of_decode hi, exec_eq_record, present_cfg, present_inp]

/-- Settles O4: `presented` and `State.present` are the same state. -/
theorem stepRunsTheDecodedCommand : Obligations.StepRunsTheDecodedCommand :=
  fun _ _ _ _ hp hi => step_eq_exec hp hi

/-- Settles O7: the placed word heads the sequence, and it decodes to its command. -/
theorem placedCommandWordRunsNext : Obligations.PlacedCommandWordRunsNext :=
  fun s i => step_eq_exec (withFetchWord_eight_pending s (encode i)) (decode_encode i)

/-- Settles O13: the fields of `State.reset`, and no last answer to drive the outputs. -/
theorem resetLeavesNothingObserved : Obligations.ResetLeavesNothingObserved :=
  ⟨rfl, rfl, rfl, rfl⟩

end Sys2Proof.Machine
end

section
/-! SUPPORT. Which payload bytes the codec operations read (R28, R51, R152, R172): payloads that agree on those bytes
give the same answer. -/

namespace Sys2Proof.Machine

variable {c : Config} {pay pay' : Vector Byte 28}

/-- Two payloads agree on the bytes from `lo` up to, not including, `hi`. -/
def SameBytes (pay pay' : Vector Byte 28) (lo hi : Nat) : Prop :=
  ∀ k : Fin 28, lo ≤ k.val → k.val < hi → pay[k] = pay'[k]

theorem SameBytes.mono {lo hi lo' hi' : Nat} (h : SameBytes pay pay' lo hi) (hlo : lo ≤ lo') (hhi : hi' ≤ hi) :
    SameBytes pay pay' lo' hi' :=
  fun k hk hk' => h k (by omega) (by omega)

theorem SameBytes.payByte_eq {lo hi i : Nat} (h : SameBytes pay pay' lo hi) (hlo : lo ≤ i) (hhi : i < hi) :
    payByte pay i = payByte pay' i := by
  by_cases hi28 : i < 28
  · rw [payByte_of_lt pay hi28, payByte_of_lt pay' hi28]
    exact h ⟨i, hi28⟩ hlo hhi
  · simp [payByte, hi28]

theorem SameBytes.laneWord_eq {k : Nat} (h : SameBytes pay pay' (4 * k) (4 * k + 4)) (o : WordOrder) :
    laneWord o pay k = laneWord o pay' k := by
  unfold laneWord
  rw [h.payByte_eq (i := 4 * k) (by omega) (by omega), h.payByte_eq (i := 4 * k + 1) (by omega) (by omega),
    h.payByte_eq (i := 4 * k + 2) (by omega) (by omega), h.payByte_eq (i := 4 * k + 3) (by omega) (by omega)]

theorem SameBytes.laneWords_eq {n : Nat} (h : SameBytes pay pay' 0 (4 * n)) (o : WordOrder) :
    laneWords o pay n = laneWords o pay' n := by
  refine List.map_congr_left fun k hk => ?_
  have hk : k < n := List.mem_range.mp hk
  exact (h.mono (by omega) (by omega)).laneWord_eq o

theorem SameBytes.statusDecode_eq (h : SameBytes pay pay' 0 4) : statusDecode pay = statusDecode pay' := by
  unfold statusDecode
  rw [h.payByte_eq (i := 0) (by omega) (by omega), h.payByte_eq (i := 1) (by omega) (by omega),
    h.payByte_eq (i := 2) (by omega) (by omega), h.payByte_eq (i := 3) (by omega) (by omega)]

theorem SameBytes.eventDecode_eq (h : SameBytes pay pay' 0 2) : eventDecode pay = eventDecode pay' := by
  unfold eventDecode
  rw [h.payByte_eq (i := 0) (by omega) (by omega), h.payByte_eq (i := 1) (by omega) (by omega)]

theorem SameBytes.pdoDec_eq (h : SameBytes pay pay' 0 4) : pdoDec c pay = pdoDec c pay' := by
  unfold pdoDec
  rw [h.laneWord_eq (k := 0)]

theorem SameBytes.rdoDec_eq (h : SameBytes pay pay' 0 4) (v : Variant) : rdoDec c v pay = rdoDec c v pay' := by
  unfold rdoDec
  rw [h.laneWord_eq (k := 0)]

theorem SameBytes.pdoListDec_eq {cnt : Byte} (h : SameBytes pay pay' 0 (4 * cnt.toNat)) :
    pdoListDec c pay cnt = pdoListDec c pay' cnt := by
  unfold pdoListDec
  rw [h.laneWords_eq]

/-- RDO_ENC decodes lane `pos - 1` alone, and no lane where `pos` is 0, since that is refused first (R172, R212). -/
theorem SameBytes.rdoEnc_eq {cnt pos : Byte} {reqI reqV : Word16}
    (h : SameBytes pay pay' (4 * (pos.toNat - 1)) (4 * pos.toNat)) :
    rdoEnc c pay cnt pos reqI reqV = rdoEnc c pay' cnt pos reqI reqV := by
  unfold rdoEnc
  by_cases hpos : pos.toNat = 0
  · simp only [hpos, true_or, if_true]
  · rw [(h.mono (by omega) (by omega)).laneWord_eq (k := pos.toNat - 1)]

end Sys2Proof.Machine
end

section
/-! Noninterference: a port that a command does not read has no effect on its answer (R28). -/

open Sys2Proof.Claims

namespace Sys2Proof.Machine

theorem execAnswer_eq_of_samePortsRead {i : Instr} {p q : InPorts} (c : Config) (h : SamePortsRead i p q) :
    execAnswer i c p = execAnswer i c q := by
  cases i with
  | unitDecStatV | unitDecStatI | unitDecStatT | unitDecPdoFixI | unitDecPdoFixV | unitDecPdoPpsI | unitDecPdoPpsVmin
  | unitDecPdoPpsVmax | unitDecRdoFixImax | unitDecRdoFixIop | unitDecRdoPpsIop | unitDecRdoPpsV =>
    exact congrArg (unitDec _) h
  | unitEncStatV | unitEncStatI | unitEncStatT | unitEncPdoFixI | unitEncPdoFixV | unitEncPdoPpsI | unitEncPdoPpsVmin
  | unitEncPdoPpsVmax | unitEncRdoFixImax | unitEncRdoFixIop | unitEncRdoPpsIop | unitEncRdoPpsV =>
    exact congrArg (unitEnc _) h
  | addrLookup => exact congrArg addrLookup h
  | statusDec =>
    have hb : SameBytes p.pay q.pay 0 4 := fun k _ hk => h k hk
    simp only [execAnswer, hb.statusDecode_eq]
  | eventDec =>
    have hb : SameBytes p.pay q.pay 0 2 := fun k _ hk => h k hk
    simp only [execAnswer, hb.eventDecode_eq]
  | eventEnc =>
    have hev : p.evIn = q.evIn := h
    simp only [execAnswer, hev]
  | pdoDec =>
    have hb : SameBytes p.pay q.pay 0 4 := fun k _ hk => h k hk
    exact hb.pdoDec_eq
  | rdoDecFixed | rdoDecPps =>
    have hb : SameBytes p.pay q.pay 0 4 := fun k _ hk => h k hk
    exact hb.rdoDec_eq _
  | pdoListDec =>
    obtain ⟨hcnt, hpay⟩ := h
    have hb : SameBytes p.pay q.pay 0 (4 * p.cnt.toNat) := fun k _ hk => hpay k hk
    simp only [execAnswer, ← hcnt, hb.pdoListDec_eq]
  | rdoEnc =>
    obtain ⟨hcnt, hpos, hreqI, hreqV, hpay⟩ := h
    have hb : SameBytes p.pay q.pay (4 * (p.pos.toNat - 1)) (4 * p.pos.toNat) :=
      fun k hlo hhi => hpay k (by omega) hhi
    simp only [execAnswer, ← hcnt, ← hpos, ← hreqI, ← hreqV, hb.rdoEnc_eq]
  | pdoPackFixed =>
    obtain ⟨hfa, hfb⟩ := h
    simp only [execAnswer, hfa, hfb]
  | pdoPackPps =>
    obtain ⟨hfa, hfb, hfc, hfd⟩ := h
    simp only [execAnswer, hfa, hfb, hfc, hfd]
  | rdoPackFixed | rdoPackPps =>
    obtain ⟨hfa, hfb, hfc⟩ := h
    simp only [execAnswer, hfa, hfb, hfc]

/-- Settles O15: both answers are `execAnswer` of ports that agree where the command reads. -/
theorem unreadPortsHaveNoEffect : Obligations.UnreadPortsHaveNoEffect := by
  intro i s s' hcfg hports
  refine ⟨execAnswer i s.cfg s.inp, exec_eq_record i s, ?_⟩
  rw [execAnswer_eq_of_samePortsRead s.cfg hports, hcfg]
  exact exec_eq_record i s'

end Sys2Proof.Machine
end

section
/-! The output ports (R29, R32, R33, R36, R210): what each answer drives, against the tables that the statements
transcribe. -/

open Sys2Proof.Claims

namespace Sys2Proof.Machine

theorem outPorts_zero_eq_allZero : OutPorts.zero = allZero := rfl

theorem rdoWire_eq_rdoPort (x : RdoRec) : rdoWire x = rdoPort x := by
  cases x <;> rfl

theorem unitCode_eq_unitNumber (u : PhysUnit) : unitCode u = unitNumber u := by
  cases u <;> rfl

/-- An error drives its code and position alone. -/
theorem drive_error (e : Err) : drive (.error e) = { allZero with err := errNumber e, errIdx := errPosition e } := by
  cases e <;> rfl

/-- Each wire of a driven list is the port that R32 gives it. -/
theorem pdoWires_getElem_eq_pdoPort (es : List PdoRec) (k : Fin 7) : (pdoWires es)[k] = pdoPort es k.val := by
  rw [pdoWires_getElem, pdoPort]
  cases es[k.val]? with
  | none => rfl
  | some e => cases e <;> rfl

theorem pdoWires_eq_ofFn (es : List PdoRec) : pdoWires es = Vector.ofFn fun k : Fin 7 => pdoPort es k.val := by
  ext1 k hk
  rw [Vector.getElem_ofFn]
  exact pdoWires_getElem_eq_pdoPort es ⟨k, hk⟩

/-- A list of at most 7 entries has its length exactly on the three bits of `pdo_len`. -/
theorem driveResult_pdos_pdoLen {es : List PdoRec} (h : es.length ≤ 7) :
    (driveResult (.pdos es)).pdoLen.toNat = es.length := by
  rw [driveResult, BitVec.toNat_ofNat, Nat.mod_eq_of_lt (by omega)]

theorem driveResult_pdos (es : List PdoRec) : driveResult (.pdos es) =
    { allZero with pdoLen := BitVec.ofNat 3 es.length, pdoOut := Vector.ofFn fun k : Fin 7 => pdoPort es k.val } := by
  rw [driveResult, outPorts_zero_eq_allZero, pdoWires_eq_ofFn]

theorem driveResult_unit (u : UnitRec) : driveResult (.unit u) =
    { allZero with unitOut := { raw := u.raw, phys := u.phys, unit := unitNumber u.unit } } := by
  rw [driveResult, outPorts_zero_eq_allZero, unitWire, unitCode_eq_unitNumber]

theorem driveResult_rdo (x : RdoRec) : driveResult (.rdo x) = { allZero with rdoOut := rdoPort x } := by
  rw [driveResult, outPorts_zero_eq_allZero, rdoWire_eq_rdoPort]

theorem driveResult_request (x : RdoRec) (w : Word32) (bs : Vector Byte 4) : driveResult (.request x w bs) =
    { allZero with rdoOut := rdoPort x, wordOut := w, bytesOut := bs } := by
  rw [driveResult, outPorts_zero_eq_allZero, rdoWire_eq_rdoPort]

/-- Every entry of the ROM is a row of R200's table, with the codes its row gives. -/
theorem addrRom_mem_romRows {a : Byte} {x : AddrRec} (h : addrRom a = some x) :
    ∃ row ∈ romRows, x = row.2.1 ∧ shapeCode x.shape = row.2.2.1 ∧ accessCode x.access = row.2.2.2 := by
  have hcodes : ∀ row ∈ romRows, shapeCode row.2.1.shape = row.2.2.1 ∧ accessCode row.2.1.access = row.2.2.2 := by
    decide
  have hmem : x ∈ romRows.map fun row => row.2.1 := by
    unfold addrRom at h
    split at h <;> cases h <;> simp [romRows]
  obtain ⟨row, hrow, rfl⟩ := List.mem_map.mp hmem
  exact ⟨row, hrow, rfl, hcodes row hrow⟩

/-- On success the ports carry the result on the outputs R36 lists for the command, and 0 on every other. -/
theorem execAnswer_ok_carries {i : Instr} {c : Config} {p : InPorts} {r : Result} (h : execAnswer i c p = .ok r) :
    CarriesResult i r (driveResult r) := by
  cases i with
  | unitDecStatV | unitDecStatI | unitDecStatT | unitDecPdoFixI | unitDecPdoFixV | unitDecPdoPpsI | unitDecPdoPpsVmin
  | unitDecPdoPpsVmax | unitDecRdoFixImax | unitDecRdoFixIop | unitDecRdoPpsIop | unitDecRdoPpsV =>
    obtain ⟨u, rfl, -⟩ := unitDec_ok h
    exact ⟨u, rfl, driveResult_unit u⟩
  | unitEncStatV | unitEncStatI | unitEncStatT | unitEncPdoFixI | unitEncPdoFixV | unitEncPdoPpsI | unitEncPdoPpsVmin
  | unitEncPdoPpsVmax | unitEncRdoFixImax | unitEncRdoFixIop | unitEncRdoPpsIop | unitEncRdoPpsV =>
    obtain ⟨u, rfl, -⟩ := unitEnc_ok h
    exact ⟨u, rfl, driveResult_unit u⟩
  | statusDec => cases h; exact ⟨_, rfl, rfl⟩
  | eventDec => cases h; exact ⟨_, rfl, rfl⟩
  | eventEnc => cases h; exact ⟨_, _, rfl, rfl⟩
  | pdoDec =>
    obtain ⟨e, rfl, -⟩ := pdoDec_ok h
    exact ⟨e, rfl, driveResult_pdos [e]⟩
  | pdoListDec =>
    obtain ⟨es, rfl, hlen, -⟩ := pdoListDec_ok h
    exact ⟨es, rfl, driveResult_pdos_pdoLen hlen, driveResult_pdos es⟩
  | pdoPackFixed =>
    obtain ⟨w, rfl, -⟩ := pdoPackFixedOp_ok h
    exact ⟨w, _, rfl, rfl⟩
  | pdoPackPps =>
    obtain ⟨w, rfl, -⟩ := pdoPackPpsOp_ok h
    exact ⟨w, _, rfl, rfl⟩
  | rdoEnc =>
    obtain ⟨v, w, rfl, -⟩ := rdoEnc_ok h
    exact ⟨_, w, _, rfl, driveResult_request _ w _⟩
  | rdoDecFixed | rdoDecPps => cases h; exact ⟨_, rfl, driveResult_rdo _⟩
  | rdoPackFixed =>
    obtain ⟨w, rfl, -⟩ := rdoPackFixedOp_ok h
    exact ⟨w, _, rfl, rfl⟩
  | rdoPackPps =>
    obtain ⟨w, rfl, -⟩ := rdoPackPpsOp_ok h
    exact ⟨w, _, rfl, rfl⟩
  | addrLookup =>
    obtain ⟨a, x, rfl, hx⟩ := addrLookup_ok h
    obtain ⟨row, hrow, rfl, hshape, haccess⟩ := addrRom_mem_romRows hx
    refine ⟨row, hrow, rfl, ?_⟩
    rw [driveResult, outPorts_zero_eq_allZero, addrWire, hshape, haccess]

/-- Settles O18: the command's answer is recorded, and the ports are what that answer drives. -/
theorem onlyListedOutputsAreDriven : Obligations.OnlyListedOutputsAreDriven := by
  intro i s
  refine ⟨_, _, exec_eq_record i s, outPorts_record _ _, ?_⟩
  cases h : execAnswer i s.cfg s.inp with
  | ok r => exact .inl ⟨r, rfl, execAnswer_ok_carries h⟩
  | error e => exact .inr ⟨e, rfl, drive_error e⟩

/-- Settles O19: `pdoPort` is the table of the statement. -/
theorem pdoListWires : Obligations.PdoListWires :=
  fun s es hlen => ⟨_, outPorts_record s (.ok (.pdos es)), driveResult_pdos_pdoLen hlen,
    pdoWires_getElem_eq_pdoPort es⟩

/-- Settles O55: both answers drive `rdoPort` of the entry. -/
theorem rdoWires : Obligations.RdoWires := by
  intro s x w bs
  refine ⟨rdoPort x, ?_, ?_, ?_⟩
  · cases x <;> exact ⟨rfl, rfl, rfl⟩
  · exact (outPorts_record s _).trans (congrArg some (driveResult_rdo x))
  · exact (outPorts_record s _).trans (congrArg some (driveResult_request x w bs))

end Sys2Proof.Machine
end

section
/-! Byte order (R51): `Bytes4` and `Word32` in both orders. A big-endian word is the little-endian word of the bytes
reversed, so each fact is proved for little-endian and carried over. -/

namespace Sys2Proof.Machine

theorem wordOfBytes_be_eq_le (b0 b1 b2 b3 : Byte) : wordOfBytes .be b0 b1 b2 b3 = wordOfBytes .le b3 b2 b1 b0 := rfl

theorem bytes4_be_eq_reverse (w : Word32) : bytes4 .be w = (bytes4 .le w).reverse := by
  simp [bytes4]

/-- Byte `j` of a little-endian word is the field at bit `8 * j`. -/
theorem bytes4_le_getElem (w : Word32) (j : Fin 4) : (bytes4 .le w)[j] = w.extractLsb' (8 * j.val) 8 := by
  match j with
  | 0 | 1 | 2 | 3 => rfl

theorem bytes4_le_getElem_toNat (w : Word32) (j : Fin 4) :
    ((bytes4 .le w)[j]).toNat = w.toNat / 2 ^ (8 * j.val) % 256 := by
  exact (congrArg BitVec.toNat (bytes4_le_getElem w j)).trans (field_toNat w (8 * j.val) 8)

theorem bytes4_be_getElem_toNat (w : Word32) (j : Fin 4) :
    ((bytes4 .be w)[j]).toNat = w.toNat / 2 ^ (8 * (3 - j.val)) % 256 := by
  rw [bytes4_be_eq_reverse, Fin.getElem_fin, Vector.getElem_reverse]
  exact bytes4_le_getElem_toNat w ⟨3 - j.val, by omega⟩

/-- The four octets of a word, put together again, are the word. -/
theorem wordOfBytes_le_octets (w : Word32) :
    wordOfBytes .le (w.extractLsb' 0 8) (w.extractLsb' 8 8) (w.extractLsb' 16 8) (w.extractLsb' 24 8) = w := by
  have := w.isLt
  apply BitVec.eq_of_toNat_eq
  simp only [wordOfBytes_le_toNat, field_toNat]
  omega

theorem wordOfBytes_bytes4 (o : WordOrder) (w : Word32) :
    wordOfBytes o (bytes4 o w)[0] (bytes4 o w)[1] (bytes4 o w)[2] (bytes4 o w)[3] = w := by
  cases o with
  | le | be => exact wordOfBytes_le_octets w

/-- A byte with the value of a word's field at bit `lo` is that field. -/
theorem field_eq_of_toNat {w : Word32} {lo : Nat} {b : Byte} (h : w.toNat / 2 ^ lo % 2 ^ 8 = b.toNat) :
    w.extractLsb' lo 8 = b := BitVec.eq_of_toNat_eq ((field_toNat w lo 8).trans h)

theorem bytes4_le_wordOfBytes (b0 b1 b2 b3 : Byte) : bytes4 .le (wordOfBytes .le b0 b1 b2 b3) = #v[b0, b1, b2, b3] := by
  have hw := wordOfBytes_le_toNat b0 b1 b2 b3
  generalize wordOfBytes .le b0 b1 b2 b3 = w at hw
  have h0 : w.extractLsb' 0 8 = b0 := field_eq_of_toNat (by omega)
  have h1 : w.extractLsb' 8 8 = b1 := field_eq_of_toNat (by omega)
  have h2 : w.extractLsb' 16 8 = b2 := field_eq_of_toNat (by omega)
  have h3 : w.extractLsb' 24 8 = b3 := field_eq_of_toNat (by omega)
  simp only [bytes4, h0, h1, h2, h3]

theorem bytes4_wordOfBytes (o : WordOrder) (b0 b1 b2 b3 : Byte) :
    bytes4 o (wordOfBytes o b0 b1 b2 b3) = #v[b0, b1, b2, b3] := by
  cases o with
  | le => exact bytes4_le_wordOfBytes b0 b1 b2 b3
  | be => rw [bytes4_be_eq_reverse, wordOfBytes_be_eq_le, bytes4_le_wordOfBytes]; simp

/-- A lane inside the payload is the word of the port's own four bytes. -/
theorem laneWord_eq_wordOfBytes (o : WordOrder) (pay : Vector Byte 28) (k : Fin 7) :
    laneWord o pay k.val =
      wordOfBytes o pay[4 * k.val] pay[4 * k.val + 1] pay[4 * k.val + 2] pay[4 * k.val + 3] := by
  rw [laneWord, payByte_of_lt, payByte_of_lt, payByte_of_lt, payByte_of_lt]

/-- Settles O21: each order's word is the sum of its bytes, and `Bytes4` cuts the word at the same weights. -/
theorem wordBytesAndByteOrder : Obligations.WordBytesAndByteOrder := by
  refine ⟨fun pay k => ?_, fun w j => ?_, wordOfBytes_bytes4, bytes4_wordOfBytes⟩
  · rw [laneWord_eq_wordOfBytes, laneWord_eq_wordOfBytes]
    exact ⟨wordOfBytes_le_toNat .., wordOfBytes_be_toNat ..⟩
  · exact ⟨bytes4_le_getElem_toNat w j, bytes4_be_getElem_toNat w j⟩

end Sys2Proof.Machine
end

section
/-! The decoder against the encoder (R70 to R73, R84, R86): the opcode table holds each command at its own fields, so a
word decodes exactly when it is the word of a command, and any other word ends in IllegalOp. -/

open Sys2Proof.Claims

namespace Sys2Proof.Machine

/-- The word of a command is its SEL and OP fields put together. -/
theorem encode_eq_toByte (i : Instr) : encode i = i.cmd.toByte := by
  cases i <;> rfl

/-- A command word is its two fields put together. -/
theorem toByte_fields (b : Byte) : Cmd.toByte ⟨b.extractLsb' 0 4, b.extractLsb' 4 4⟩ = b :=
  (BitVec.extractLsb'_append_extractLsb'_eq_extractLsb' rfl).trans BitVec.extractLsb'_eq_self

/-- The row of an OP value has one command for each of its legal SEL values. -/
theorem opcodeRow_length : ∀ op : BitVec 4, (opcodeRow op).length = legalSels op := by
  decide

/-- Each command of the opcode table stands at its own OP and SEL. -/
theorem cmd_of_mem_opcodeRow : ∀ op sel : BitVec 4, ∀ i ∈ (opcodeRow op)[sel.toNat]?, i.cmd = ⟨op, sel⟩ := by
  decide

/-- A word decodes to the command at its OP and SEL in the opcode table, and to none where the table has none. -/
theorem decode_eq_ok_iff (b : Byte) (i : Instr) :
    decode b = .ok i ↔ (opcodeRow (b.extractLsb' 0 4))[(b.extractLsb' 4 4).toNat]? = some i := by
  simp only [decode]
  cases opcodeRow (b.extractLsb' 0 4) with
  | nil => simp
  | cons first rest =>
    dsimp only
    split
    · rename_i j hj
      rw [hj, Except.ok.injEq, Option.some.injEq]
    · rename_i hnone
      simp only [hnone, reduceCtorEq]

/-- A word that decodes to a command is that command's word. -/
theorem encode_of_decode {b : Byte} {i : Instr} (h : decode b = .ok i) : encode i = b := by
  rw [encode_eq_toByte, cmd_of_mem_opcodeRow _ _ i ((decode_eq_ok_iff b i).mp h), toByte_fields]

/-- Settles O1: `encode_of_decode` one way, `decode_encode` the other. -/
theorem decodeEncodeAgree : Obligations.DecodeEncodeAgree := by
  refine fun b i => ⟨encode_of_decode, ?_⟩
  rintro rfl
  exact decode_encode i

/-- A pending transaction whose word is no command is answered with IllegalOp and nothing else changes. -/
theorem step_of_no_command {s : State} {p : InPorts} {ps : List InPorts} (hp : s.pending = p :: ps)
    (hno : ∀ i, decode p.cmd ≠ .ok i) : step s = .next ((s.present p ps).record (.error .illegalOp)) := by
  rw [step_of_pending_cons hp, stepAnswer]
  split
  · rename_i i hi
    exact absurd hi (hno i)
  · rfl

/-- R73's list pairs each command with its word. -/
theorem encode_of_mem_legalWords : ∀ p ∈ legalWords, encode p.2 = p.1 := by
  decide

/-- R73's list leaves no command out. -/
theorem encode_mem_legalWords (i : Instr) : encode i ∈ legalWords.map Prod.fst := by
  cases i <;> decide

/-- Settles O2: a listed word is its command's word, and a word of a command is listed. -/
theorem legalCommandWordsAreExactlyTheseThirtySeven : Obligations.LegalCommandWordsAreExactlyTheseThirtySeven := by
  refine ⟨fun p hp => (decodeEncodeAgree p.1 p.2).mpr (encode_of_mem_legalWords p hp), rfl, fun b hb => ?_⟩
  have hno : ∀ i, decode b ≠ .ok i := fun i hi => hb (encode_of_decode hi ▸ encode_mem_legalWords i)
  refine ⟨hno, ?_⟩
  rintro s t rest hp rfl
  exact step_of_no_command hp hno

/-- A word whose SEL is outside its OP's legal set, which is empty for a reserved OP, decodes to no command. -/
theorem decode_ne_ok_of_illegal_sel {b : Byte} (h : legalSels (b.extractLsb' 0 4) ≤ (b.extractLsb' 4 4).toNat)
    (i : Instr) : decode b ≠ .ok i := by
  rw [Ne, decode_eq_ok_iff, List.getElem?_eq_none (opcodeRow_length _ ▸ h)]
  nofun

/-- From the first SEL value outside an OP's legal set on, every step ends in IllegalOp (R72, R84). -/
theorem illegalFrom_of_legalSels_le {op : BitVec 4} {n : Nat} (h : legalSels op ≤ n) : IllegalFrom op n := by
  rintro s t rest hp rfl hsel
  exact step_of_no_command hp (decode_ne_ok_of_illegal_sel (h.trans hsel))

/-- Settles O5: each clause starts at its OP's number of legal SEL values, and IllegalOp drives code 7 alone. -/
theorem reservedAndIllegalCommandsRaiseIllegalOp : Obligations.ReservedAndIllegalCommandsRaiseIllegalOp := by
  refine ⟨?_, ?_, ?_, ?_, ?_, ?_, ?_, ?_, ?_, ?_, ?_, ?_, ?_, ?_, ?_, ?_, fun s => outPorts_record s _⟩ <;>
    exact illegalFrom_of_legalSels_le (by decide)

/-- Settles O3: a word built from its fields is the word of the command named, and the two others are refused. -/
theorem specCommandWordsDecode : Obligations.SpecCommandWordsDecode :=
  ⟨decode_encode .unitDecStatV, decode_encode .unitEncRdoPpsV, decode_encode .statusDec, decode_encode .eventEnc,
    decode_encode .pdoPackPps, decode_encode .rdoEnc, decode_encode .rdoDecPps, decode_encode .addrLookup, rfl, rfl⟩

/-- Settles O54: the expansions of R86, their words, and the decoding commands of their registers in the ROM. -/
theorem pseudoInstructionsExpand : Obligations.PseudoInstructionsExpand := by
  refine ⟨rfl, rfl, rfl, ?_⟩
  simp only [List.forall_mem_cons]
  exact ⟨⟨rfl, _, rfl, rfl⟩, ⟨rfl, _, rfl, rfl⟩, ⟨rfl, _, rfl, rfl⟩, List.forall_mem_nil _⟩

end Sys2Proof.Machine
end

section
/-! Reserved bits and PDO tags (R76, R82): a decoder reads fields, no field of a layout meets its reserved mask, and what
is packed has the mask zero. -/

open Sys2Proof.Claims

namespace Sys2Proof.Machine

/-- Settles O34: the three cases of `pdoDecode`, kept apart because `PPS_TAG` is not the Fixed tag. -/
theorem pdoTagTable : Obligations.PdoTagTable := by
  refine ⟨rfl, rfl, rfl, fun c w => ?_⟩
  have htag : w.extractLsb 31 30 = pdoTag w := rfl
  have hne := ppsTagBits_ne_fixed c.ppsTag
  rw [htag]
  obtain ⟨hfix, hdec⟩ | ⟨hfix, hpps, hdec⟩ | ⟨hfix, hpps, hdec⟩ := pdoDecode_cases c w
  · simp [hdec, hfix, hne.symm]
  · simp [hdec, hpps, hne]
  · simp [hdec, hfix, hpps]

/-- The word with the bits of the mask `m` cleared. -/
def clearBits (w m : Word32) : Word32 := w ^^^ (w &&& m)

/-- A field that does not meet the mask keeps its value. -/
theorem field_clearBits (w : Word32) {m : Word32} {lo n : Nat} (h : m.extractLsb' lo n = 0#n) :
    (clearBits w m).extractLsb' lo n = w.extractLsb' lo n := by
  rw [clearBits, BitVec.extractLsb'_xor, BitVec.extractLsb'_and, h, BitVec.and_zero, BitVec.xor_zero]

theorem fixedPdoOf_clearBits (w : Word32) : fixedPdoOf (clearBits w fixedPdoReserved) = fixedPdoOf w := by
  unfold fixedPdoOf
  rw [field_clearBits w rfl, field_clearBits w rfl]

theorem ppsPdoOf_clearBits (w : Word32) : ppsPdoOf (clearBits w ppsPdoReserved) = ppsPdoOf w := by
  unfold ppsPdoOf
  rw [field_clearBits w rfl, field_clearBits w rfl, field_clearBits w rfl, field_clearBits w rfl]

/-- The tag bits are reserved in neither layout, so both words are read in the same layout. -/
theorem pdoDecode_clearBits_of_fixed (c : Config) {w : Word32} (h : pdoTag w = 0b00#2) :
    pdoDecode c (clearBits w fixedPdoReserved) = pdoDecode c w := by
  have htag : pdoTag (clearBits w fixedPdoReserved) = pdoTag w := field_clearBits w rfl
  simp only [pdoDecode, htag, h, if_true, fixedPdoOf_clearBits]

theorem pdoDecode_clearBits_of_pps (c : Config) {w : Word32} (h : pdoTag w = ppsTagBits c.ppsTag) :
    pdoDecode c (clearBits w ppsPdoReserved) = pdoDecode c w := by
  have htag : pdoTag (clearBits w ppsPdoReserved) = pdoTag w := field_clearBits w rfl
  have hne := ppsTagBits_ne_fixed c.ppsTag
  simp only [pdoDecode, htag, h, if_neg hne, if_true, ppsPdoOf_clearBits]

theorem rdoDecode_clearBits (v : Variant) (w : Word32) : rdoDecode v (clearBits w (rdoReserved v)) = rdoDecode v w := by
  cases v with
  | fixed =>
    simp only [rdoDecode, fixedRdoOf, rdoReserved]
    rw [field_clearBits w rfl, field_clearBits w rfl, field_clearBits w rfl]
  | pps =>
    simp only [rdoDecode, ppsRdoOf, rdoReserved]
    rw [field_clearBits w rfl, field_clearBits w rfl, field_clearBits w rfl]

/-- Two bytes that agree under a mask agree in each bit of the mask. -/
theorem getLsbD_eq_of_and_eq {x y m : Byte} (h : x &&& m = y &&& m) {k : Nat} (hk : m.getLsbD k = true) :
    x.getLsbD k = y.getLsbD k := by
  simpa [hk] using congrArg (fun b => b.getLsbD k) h

/-- Bit 3 of the status byte is not read (R74). -/
theorem statusOf_eq_of_and_eq {b b' : Byte} (h : b &&& 0xF7 = b' &&& 0xF7) (v i t : Byte) (vMV iMA tC : Word16) :
    statusOf b v i t vMV iMA tC = statusOf b' v i t vMV iMA tC := by
  unfold statusOf
  congr 1 <;> exact getLsbD_eq_of_and_eq h rfl

/-- Bits 7:4 of the event bytes are not read (R75). -/
theorem eventsOf_eq_of_and_eq {n n' p p' : Byte} (hn : n &&& 0x0F = n' &&& 0x0F) (hp : p &&& 0x0F = p' &&& 0x0F) :
    eventsOf n p = eventsOf n' p' := by
  calc eventsOf n p
    _ = eventsOf n' p := by unfold eventsOf; congr 1 <;> exact getLsbD_eq_of_and_eq hn rfl
    _ = eventsOf n' p' := by unfold eventsOf; congr 1 <;> exact getLsbD_eq_of_and_eq hp rfl

/-- A command ends with the answer `a` exactly when `execAnswer` gives it. -/
theorem exec_eq_answered_iff {i : Instr} {s : State} {a : Answer} :
    exec i s = .next (answered s a) ↔ execAnswer i s.cfg s.inp = a := by
  rw [exec_eq_record]
  constructor
  · intro h
    injection h with h
    injection h with _ _ _ hobs
    simpa using hobs
  · rintro rfl
    rfl

/-- STATUS_DEC gives one answer to payloads that differ in bit 3 of the status byte alone (R74). -/
theorem statusDecode_eq_of_and_eq {p q : Vector Byte 28} (h0 : p[0] &&& 0xF7 = q[0] &&& 0xF7) (h1 : p[1] = q[1])
    (h2 : p[2] = q[2]) (h3 : p[3] = q[3]) : statusDecode p = statusDecode q := by
  simp only [statusDecode, payByte_of_lt, Nat.reduceLT, h1, h2, h3]
  exact statusOf_eq_of_and_eq h0 ..

/-- EVENT_DEC gives one answer to payloads that differ in bits 7:4 of the event bytes alone (R75). -/
theorem eventDecode_eq_of_and_eq {p q : Vector Byte 28} (h0 : p[0] &&& 0x0F = q[0] &&& 0x0F)
    (h1 : p[1] &&& 0x0F = q[1] &&& 0x0F) : eventDecode p = eventDecode q := by
  simp only [eventDecode, payByte_of_lt, Nat.reduceLT]
  exact eventsOf_eq_of_and_eq h0 h1

/-- The word of a packed Fixed PDO is of the Fixed layout. -/
theorem pdoPackFixedOp_ok_layout {c : Config} {fa fb : Word16} {r : Result} (h : pdoPackFixedOp c fa fb = .ok r) :
    ∃ i v, r = packedWord c (pdoPackFixed i v) := by
  unfold pdoPackFixedOp at h
  split at h
  · cases h
  · cases h
    exact ⟨_, _, rfl⟩

/-- The word of a packed PPS PDO is of the PPS layout. -/
theorem pdoPackPpsOp_ok_layout {c : Config} {fa fb fc fd : Word16} {r : Result}
    (h : pdoPackPpsOp c fa fb fc fd = .ok r) : ∃ i lo hi a, r = packedWord c (pdoPackPps c i lo hi a) := by
  unfold pdoPackPpsOp at h
  split at h
  · cases h
  · cases h
    exact ⟨_, _, _, _, rfl⟩

/-- Settles O50: decoding by fields that miss the mask, encoding by what each operation can answer on success. -/
theorem reservedBitsIgnoredOnDecodeZeroOnEncode : Obligations.ReservedBitsIgnoredOnDecodeZeroOnEncode := by
  refine ⟨fun c w => pdoDecode_clearBits_of_fixed c, fun c w => pdoDecode_clearBits_of_pps c,
    rdoDecode_clearBits .fixed, rdoDecode_clearBits .pps, ?status, ?event, fun s => ⟨?eventEnc, ?pdoFixed, ?pdoPps,
    ?rdoFixed, ?rdoPps, ?rdoEnc⟩⟩
  case status =>
    intro s t h0 h1 h2 h3
    have hsame := statusDecode_eq_of_and_eq h0 h1 h2 h3
    exact ⟨_, exec_eq_answered_iff.mpr rfl, exec_eq_answered_iff.mpr (congrArg (Except.ok ∘ Result.status) hsame.symm)⟩
  case event =>
    intro s t h0 h1
    have hsame := eventDecode_eq_of_and_eq h0 h1
    exact ⟨_, exec_eq_answered_iff.mpr rfl, exec_eq_answered_iff.mpr (congrArg (Except.ok ∘ Result.events) hsame.symm)⟩
  case eventEnc =>
    intro b0 b1 h
    exact execAnswer_ok_sound (exec_eq_answered_iff.mp h)
  case pdoFixed =>
    intro w bs h
    obtain ⟨i, v, hr⟩ := pdoPackFixedOp_ok_layout (exec_eq_answered_iff.mp h)
    cases hr
    exact pdoPackFixed_reserved i v
  case pdoPps =>
    intro w bs h
    obtain ⟨i, lo, hi, a, hr⟩ := pdoPackPpsOp_ok_layout (exec_eq_answered_iff.mp h)
    cases hr
    exact pdoPackPps_reserved s.cfg i lo hi a
  case rdoFixed =>
    intro w bs h
    obtain ⟨w', hr, hw⟩ := rdoPackFixedOp_ok (exec_eq_answered_iff.mp h)
    cases hr
    exact hw
  case rdoPps =>
    intro w bs h
    obtain ⟨w', hr, hw⟩ := rdoPackPpsOp_ok (exec_eq_answered_iff.mp h)
    cases hr
    exact hw
  case rdoEnc =>
    intro r w bs h
    obtain ⟨-, -, hw, -, -⟩ := execAnswer_ok_sound (exec_eq_answered_iff.mp h)
    cases r with
    | fixed | pps => exact hw

end Sys2Proof.Machine
end

section
/-! Unit scaling (R110 to R117): the LUT against R110's table, `Unscale` as the exact inverse of `Scale` on the raw values
that fit, and the answers of UNIT_DEC and UNIT_ENC of each row. -/

open Sys2Proof.Claims

namespace Sys2Proof.Machine

/-- Settles O22: each row against the LUT, and each entry at its own row. -/
theorem lutHoldsTheTwelveEntries : Obligations.LutHoldsTheTwelveEntries := by
  refine ⟨rfl, fun e => ?_, by decide⟩
  cases e <;> decide

theorem lut_of_mem_unitRows {r : UnitRow} (hr : r ∈ unitRows) : lut r.entry = ⟨r.unit, r.step, r.width⟩ := by
  obtain ⟨-, -, hrows⟩ := lutHoldsTheTwelveEntries
  exact (hrows r hr).left

theorem rawLimit_of_mem_unitRows {r : UnitRow} (hr : r ∈ unitRows) : rawLimit r.entry = 2 ^ r.width := by
  rw [rawLimit, lut_of_mem_unitRows hr]

theorem lut_step_pos (i : LutIndex) : 0 < (lut i).step := by
  cases i <;> decide

/-- The largest product is that of PDO_FIX_V, 1023 times 50 (R115). -/
theorem scale_toNat_le {n : Nat} {i : LutIndex} {raw : BitVec n} (h : raw.toNat < rawLimit i) :
    (scale i raw).toNat ≤ 51150 := by
  have hmax : (rawLimit i - 1) * (lut i).step ≤ 51150 := by cases i <;> decide
  calc (scale i raw).toNat
    _ = raw.toNat * (lut i).step := scale_of_fits i raw h
    _ ≤ (rawLimit i - 1) * (lut i).step := Nat.mul_le_mul_right _ (by omega)
    _ ≤ 51150 := hmax

/-- `Unscale` succeeds with the raw value that fits and whose product is the physical value, and only with it (R114). -/
theorem unscale_eq_ok_iff {i : LutIndex} {p : Word16} {raw : Nat} :
    unscale i p = .ok raw ↔ raw < rawLimit i ∧ p.toNat = raw * (lut i).step := by
  have hpos := lut_step_pos i
  constructor
  · intro h
    obtain ⟨-, herr⟩ | ⟨-, -, herr⟩ | ⟨hexact, hfits, hok⟩ := unscale_cases i p
    · simp [herr] at h
    · simp [herr] at h
    · obtain rfl : p.toNat / (lut i).step = raw := by simpa [hok] using h
      exact ⟨hfits, (Nat.div_mul_cancel (Nat.dvd_of_mod_eq_zero hexact)).symm⟩
  · rintro ⟨hfits, hp⟩
    simp [unscale, hp, Nat.mul_div_cancel _ hpos, hfits]

theorem unscale_scale {i : LutIndex} {raw : Word16} (h : raw.toNat < rawLimit i) :
    unscale i (scale i raw) = .ok raw.toNat :=
  unscale_eq_ok_iff.mpr ⟨h, scale_of_fits i raw h⟩

theorem scale_of_unscale {i : LutIndex} {p : Word16} {raw : Nat} (h : unscale i p = .ok raw) :
    scale i (BitVec.ofNat 16 raw) = p := by
  obtain ⟨-, hp⟩ := unscale_eq_ok_iff.mp h
  have hle : raw ≤ p.toNat := hp ▸ Nat.le_mul_of_pos_right raw (lut_step_pos i)
  have hraw : (BitVec.ofNat 16 raw).toNat = raw := by
    rw [BitVec.toNat_ofNat, Nat.mod_eq_of_lt (hle.trans_lt p.isLt)]
  rw [scale, hraw, ← hp, BitVec.ofNat_toNat, BitVec.setWidth_eq]

/-- Settles O23: the product is exact on the values that fit, and the largest of them is R115's. -/
theorem scaleIsAnExactProduct : Obligations.ScaleIsAnExactProduct := by
  intro r hr n raw hfits
  rw [← rawLimit_of_mem_unitRows hr] at hfits
  refine ⟨?_, scale_toNat_le hfits⟩
  rw [scale_of_fits r.entry raw hfits, lut_of_mem_unitRows hr]

/-- Settles O24: both directions are `unscale_eq_ok_iff`, with `Scale` exact on the values that fit. -/
theorem scaleAndUnscaleAreInverse : Obligations.ScaleAndUnscaleAreInverse := by
  refine fun r hr => ⟨fun p raw => scale_of_unscale, fun raw hfits => unscale_scale ?_⟩
  rwa [rawLimit_of_mem_unitRows hr]

theorem unitDec_of_fits {i : LutIndex} {v : Word16} (h : v.toNat < rawLimit i) :
    unitDec i v = .ok (.unit { raw := v, phys := scale i v, unit := (lut i).unit }) :=
  if_neg (Nat.not_le.mpr h)

theorem unitDec_of_not_fits {i : LutIndex} {v : Word16} (h : rawLimit i ≤ v.toNat) :
    unitDec i v = .error .valueOutOfRange :=
  if_pos h

theorem unitEnc_of_exact {i : LutIndex} {v raw : Word16} (hfits : raw.toNat < rawLimit i)
    (hv : v.toNat = raw.toNat * (lut i).step) :
    unitEnc i v = .ok (.unit { raw := raw, phys := v, unit := (lut i).unit }) := by
  simp only [unitEnc, unscale_eq_ok_iff.mpr ⟨hfits, hv⟩, BitVec.ofNat_toNat, BitVec.setWidth_eq]

/-- The step is checked first, so a value off the step that is too large as well is NotExactStep (R114). -/
theorem unitEnc_of_off_step {i : LutIndex} {v : Word16} (h : v.toNat % (lut i).step ≠ 0) :
    unitEnc i v = .error .notExactStep := by
  simp only [unitEnc, unscale, if_pos h]

theorem unitEnc_of_too_large {i : LutIndex} {v : Word16} (hexact : v.toNat % (lut i).step = 0)
    (hlarge : rawLimit i * (lut i).step ≤ v.toNat) : unitEnc i v = .error .valueOutOfRange := by
  have hquot : rawLimit i ≤ v.toNat / (lut i).step := (Nat.le_div_iff_mul_le (lut_step_pos i)).mpr hlarge
  simp only [unitEnc, unscale, hexact, ne_eq, not_true_eq_false, if_false, ge_iff_le, if_pos hquot]

/-- The two commands of a row of R110 are UNIT_DEC and UNIT_ENC of the row's entry (R72). -/
theorem execAnswer_of_mem_unitRows (c : Config) (p : InPorts) : ∀ r ∈ unitRows,
    execAnswer r.dec c p = unitDec r.entry p.val ∧ execAnswer r.enc c p = unitEnc r.entry p.val := by
  intro r hr
  fin_cases hr <;> exact ⟨rfl, rfl⟩

/-- The words of a row's two commands: SEL is the row's index, OP 0 decodes and OP 1 encodes (R70, R72). -/
theorem encode_of_mem_unitRows : ∀ r ∈ unitRows,
    encode r.dec = BitVec.ofNat 8 (16 * r.index) ∧ encode r.enc = BitVec.ofNat 8 (16 * r.index + 1) := by
  decide

/-- UNIT_DEC of a row from any state. -/
theorem exec_dec_of_mem_unitRows {r : UnitRow} (hr : r ∈ unitRows) (s : State) :
    exec r.dec s = .next (answered s (unitDec r.entry s.inp.val)) :=
  exec_eq_answered_iff.mpr (execAnswer_of_mem_unitRows s.cfg s.inp r hr).left

/-- UNIT_ENC of a row from any state. -/
theorem exec_enc_of_mem_unitRows {r : UnitRow} (hr : r ∈ unitRows) (s : State) :
    exec r.enc s = .next (answered s (unitEnc r.entry s.inp.val)) :=
  exec_eq_answered_iff.mpr (execAnswer_of_mem_unitRows s.cfg s.inp r hr).right

/-- Settles O25: a row's command answers `unitDec` of its entry, whose one guard is the width. -/
theorem unitDecScalesTheRawValue : Obligations.UnitDecScalesTheRawValue := by
  refine ⟨illegalFrom_of_legalSels_le (by decide), fun r hr => ⟨(encode_of_mem_unitRows r hr).left, fun s => ?_⟩⟩
  rw [exec_dec_of_mem_unitRows hr, ← rawLimit_of_mem_unitRows hr]
  refine ⟨fun hfits => ⟨scale r.entry s.inp.val, ?_, ?_⟩, fun hlarge => ?_⟩
  · rw [scale_of_fits r.entry s.inp.val hfits, lut_of_mem_unitRows hr]
  · rw [unitDec_of_fits hfits, lut_of_mem_unitRows hr]
  · rw [unitDec_of_not_fits hlarge]

/-- Settles O26: a row's command answers `unitEnc` of its entry, which checks the step before the width. -/
theorem unitEncDividesExactlyOrFails : Obligations.UnitEncDividesExactlyOrFails := by
  refine ⟨illegalFrom_of_legalSels_le (by decide), fun r hr => ⟨(encode_of_mem_unitRows r hr).right, fun s => ?_⟩⟩
  have hstep : (lut r.entry).step = r.step := by rw [lut_of_mem_unitRows hr]
  have hunit : (lut r.entry).unit = r.unit := by rw [lut_of_mem_unitRows hr]
  rw [exec_enc_of_mem_unitRows hr, ← rawLimit_of_mem_unitRows hr, ← hstep, ← hunit]
  refine ⟨fun raw hfits hv => ?_, fun hoff => ?_, fun hexact hlarge => ?_⟩
  · rw [unitEnc_of_exact hfits hv]
  · rw [unitEnc_of_off_step hoff]
  · rw [unitEnc_of_too_large hexact hlarge]

theorem unitCode_ne_three (u : PhysUnit) : unitCode u ≠ 3 := by
  cases u <;> decide

/-- Only a LUT result drives a unit, by `unitCode`; every other answer leaves the field at 0 (R36, R112). -/
theorem drive_unitOut_unit_ne_three (a : Answer) : (drive a).unitOut.unit ≠ 3 := by
  have hzero : (0 : BitVec 2) ≠ 3 := by decide
  cases a with
  | error e => exact hzero
  | ok r =>
    cases r with
    | unit u => exact unitCode_ne_three u.unit
    | status | events | eventBytes | pdos | packed | request | rdo | addr => exact hzero

/-- Settles O20: the ports after a command are what its answer drives. -/
theorem unitCodeThreeIsNeverDriven : Obligations.UnitCodeThreeIsNeverDriven := by
  refine ⟨fun s u => ⟨_, outPorts_record s (.ok (.unit u)), ?_⟩, ?_⟩
  · cases hu : u.unit <;> simp [drive, driveResult, unitWire, unitCode, hu]
  · intro i s t hexec o hports
    rw [exec_eq_complete, complete_next_iff] at hexec
    rw [hexec, outPorts_record, Option.some.injEq] at hports
    exact hports ▸ drive_unitOut_unit_ne_three _

end Sys2Proof.Machine
end

section
/-! The status flags (R130 to R133): the fields of a decoded status payload, the byte that carries a given choice of flags,
and the one LUT pipeline behind a status reading and UNIT_DEC. -/

open Sys2Proof.Claims

namespace Sys2Proof.Machine

/-- The decoded payload over the port's own bytes (R130). -/
theorem statusDecode_eq_statusOf (pay : Vector Byte 28) :
    statusDecode pay = statusOf pay[0] pay[1] pay[2] pay[3]
      (scale .statV pay[1]) (scale .statI pay[2]) (scale .statT pay[3]) := by
  simp only [statusDecode, payByte_of_lt, Nat.reduceLT]

/-- STATUS_DEC answers a record exactly when it is the decoding of the payload (R130). -/
theorem exec_statusDec_iff {s : State} {r : StatusRec} :
    exec .statusDec s = .next (answered s (.ok (.status r))) ↔ statusDecode s.inp.pay = r := by
  rw [exec_eq_answered_iff, execAnswer, Except.ok.injEq, Result.status.injEq]

/-- Settles O27: the flags and raw readings are the fields of `statusOf`, the physical values those of a scaled record. -/
theorem statusDecReadsFlagsAndReadings : Obligations.StatusDecReadsFlagsAndReadings := by
  refine ⟨illegalFrom_of_legalSels_le (by decide), rfl, fun s => ?_⟩
  have hscaled := statusDecode_scaled s.inp.pay
  rw [statusDecode_eq_statusOf] at hscaled
  exact ⟨_, exec_statusDec_iff.mpr (statusDecode_eq_statusOf s.inp.pay),
    rfl, rfl, rfl, rfl, rfl, rfl, rfl, rfl, rfl, rfl, hscaled⟩

/-- The status byte with these seven flags, its reserved bit 3 zero (R74). -/
def statusByte (ready success newCaps ovp ocp otp dataRole : Bool) : Byte :=
  BitVec.ofBoolListLE [ready, success, newCaps, false, ovp, ocp, otp, dataRole]

/-- Each flag of a record read from `statusByte` is the one placed there. -/
theorem statusOf_statusByte (f0 f1 f2 f4 f5 f6 f7 : Bool) (v i t : Byte) (vMV iMA tC : Word16) :
    statusOf (statusByte f0 f1 f2 f4 f5 f6 f7) v i t vMV iMA tC =
      ⟨f0, f1, f2, f4, f5, f6, f7, v, i, t, vMV, iMA, tC⟩ := by
  unfold statusOf statusByte
  congr 1 <;> exact BitVec.getLsbD_ofBoolListLE

/-- Settles O28: the byte is `statusByte` of the flags, whatever the other payload bytes are. -/
theorem statusFlagsAreIndependent : Obligations.StatusFlagsAreIndependent := by
  intro f0 f1 f2 f4 f5 f6 f7
  refine ⟨statusByte f0 f1 f2 f4 f5 f6 f7, fun s hb => ?_⟩
  have hdec := statusDecode_eq_statusOf s.inp.pay
  rw [hb, statusOf_statusByte] at hdec
  exact ⟨_, exec_statusDec_iff.mpr hdec, rfl, rfl, rfl, rfl, rfl, rfl, rfl⟩

/-- UNIT_DEC of a raw field put on the 16-bit port: it fits its own entry, and widening does not change its product. -/
theorem unitDec_setWidth_of_width {n : Nat} {i : LutIndex} (raw : BitVec n) (h : (lut i).width = n) :
    unitDec i (raw.setWidth 16) =
      .ok (.unit { raw := raw.setWidth 16, phys := scale i raw, unit := (lut i).unit }) := by
  have hn : n ≤ 16 := h ▸ (by cases i <;> decide : (lut i).width ≤ 16)
  have hwide : (raw.setWidth 16).toNat = raw.toNat := BitVec.toNat_setWidth_of_le hn
  have hfits : (raw.setWidth 16).toNat < rawLimit i := by
    rw [hwide, rawLimit, h]
    exact raw.isLt
  rw [unitDec_of_fits hfits, scale, hwide, scale]

/-- Settles O29: a status reading and UNIT_DEC scale the same raw value by the same LUT entry. -/
theorem statusReadingsAgreeWithUnitDec : Obligations.StatusReadingsAgreeWithUnitDec := by
  intro s v i t r hr hv hi ht
  obtain rfl := exec_statusDec_iff.mp hr
  simp only [exec_eq_answered_iff, execAnswer, hv, hi, ht]
  exact ⟨unitDec_setWidth_of_width _ rfl, unitDec_setWidth_of_width _ rfl, unitDec_setWidth_of_width _ rfl⟩

end Sys2Proof.Machine
end

section
/-! The event flags (R140 to R142). Both bytes of the payload have one form, a nibble of four flags under four zero bits:
its value is the sum of its flags, its low bits are the flags, and a byte's own four low bits give the byte masked. -/

open Sys2Proof.Claims

namespace Sys2Proof.Machine

/-- The byte with these four flags at bits 0 to 3, its reserved bits 7:4 zero (R75). -/
def flagNibble (f0 f1 f2 f3 : Bool) : Byte :=
  BitVec.ofBoolListLE [f0, f1, f2, f3, false, false, false, false]

/-- Four flags, each moved to its own bit, make the nibble. -/
theorem or_flagBit_eq_flagNibble : ∀ f0 f1 f2 f3 : Bool,
    flagBit f0 0 ||| flagBit f1 1 ||| flagBit f2 2 ||| flagBit f3 3 = flagNibble f0 f1 f2 f3 := by
  decide

theorem negotiationByte_eq_flagNibble (e : EventRec) :
    negotiationByte e = flagNibble e.negNewSuccess e.negNewFail e.negSuccess e.negFail :=
  or_flagBit_eq_flagNibble ..

theorem protectionByte_eq_flagNibble (e : EventRec) :
    protectionByte e = flagNibble e.protOv e.protOc e.protOt e.protDrChange :=
  or_flagBit_eq_flagNibble ..

theorem flagNibble_toNat (f0 f1 f2 f3 : Bool) :
    (flagNibble f0 f1 f2 f3).toNat = f0.toNat + 2 * f1.toNat + 4 * f2.toNat + 8 * f3.toNat := by
  simp only [flagNibble, BitVec.ofBoolListLE, List.length_nil, BitVec.toNat_concat, BitVec.toNat_ofNat, Nat.zero_mod,
    Bool.toNat_false]
  omega

/-- A record read from two nibbles has their flags. -/
theorem eventsOf_flagNibble (f0 f1 f2 f3 g0 g1 g2 g3 : Bool) :
    eventsOf (flagNibble f0 f1 f2 f3) (flagNibble g0 g1 g2 g3) = ⟨f0, f1, f2, f3, g0, g1, g2, g3⟩ := by
  unfold eventsOf flagNibble
  congr 1 <;> exact BitVec.getLsbD_ofBoolListLE

/-- A byte's four low bits, placed again, are the byte with bits 7:4 cleared. -/
theorem flagNibble_getLsbD (b : Byte) :
    flagNibble (b.getLsbD 0) (b.getLsbD 1) (b.getLsbD 2) (b.getLsbD 3) = b &&& 0x0F := by
  apply BitVec.eq_of_getLsbD_eq
  intro k hk
  rw [flagNibble, BitVec.getLsbD_ofBoolListLE, BitVec.getLsbD_and]
  interval_cases k <;> simp

/-- Encoding a record and decoding its bytes gives it back (R142). -/
theorem eventsOf_negotiationByte_protectionByte (e : EventRec) :
    eventsOf (negotiationByte e) (protectionByte e) = e := by
  rw [negotiationByte_eq_flagNibble, protectionByte_eq_flagNibble, eventsOf_flagNibble]

theorem negotiationByte_eventsOf (n p : Byte) : negotiationByte (eventsOf n p) = n &&& 0x0F :=
  (negotiationByte_eq_flagNibble _).trans (flagNibble_getLsbD n)

theorem protectionByte_eventsOf (n p : Byte) : protectionByte (eventsOf n p) = p &&& 0x0F :=
  (protectionByte_eq_flagNibble _).trans (flagNibble_getLsbD p)

/-- EVENT_DEC answers a record exactly when it is the reading of the payload's first two bytes (R140). -/
theorem exec_eventDec_iff {s : State} {e : EventRec} :
    exec .eventDec s = .next (answered s (.ok (.events e))) ↔ eventsOf s.inp.pay[0] s.inp.pay[1] = e := by
  rw [exec_eq_answered_iff, execAnswer, Except.ok.injEq, Result.events.injEq, eventDecode, payByte_of_lt, payByte_of_lt]

/-- EVENT_ENC answers two bytes exactly when they are those of the record on the port (R141). -/
theorem exec_eventEnc_iff {s : State} {b0 b1 : Byte} :
    exec .eventEnc s = .next (answered s (.ok (.eventBytes b0 b1))) ↔
      negotiationByte s.inp.evIn = b0 ∧ protectionByte s.inp.evIn = b1 := by
  rw [exec_eq_answered_iff, execAnswer, Except.ok.injEq, Result.eventBytes.injEq]

/-- Settles O30: each flag is one field of `eventsOf`. -/
theorem eventDecReadsEightFlags : Obligations.EventDecReadsEightFlags :=
  ⟨illegalFrom_of_legalSels_le (by decide), rfl, fun _ =>
    ⟨_, exec_eventDec_iff.mpr rfl, rfl, rfl, rfl, rfl, rfl, rfl, rfl, rfl⟩⟩

/-- Settles O31: both bytes are nibbles, and the answer drives them with two zero bytes after them. -/
theorem eventEncWritesTheMaskBytes : Obligations.EventEncWritesTheMaskBytes := by
  refine ⟨illegalFrom_of_legalSels_le (by decide), rfl, fun s =>
    ⟨_, _, exec_eventEnc_iff.mpr ⟨rfl, rfl⟩, ?_, ?_, _, outPorts_record s _, rfl⟩⟩
  · rw [negotiationByte_eq_flagNibble, flagNibble_toNat]
  · rw [protectionByte_eq_flagNibble, flagNibble_toNat]

/-- Settles O32: `eventsOf` undoes the two bytes, and the two bytes of `eventsOf` are the masked ones. -/
theorem eventCodecRoundTrips : Obligations.EventCodecRoundTrips := by
  refine ⟨fun s t b0 b1 henc h0 h1 => ?_, fun s t e hdec he => ?_⟩
  · obtain ⟨rfl, rfl⟩ := exec_eventEnc_iff.mp henc
    rw [exec_eventDec_iff, h0, h1, eventsOf_negotiationByte_protectionByte]
  · obtain rfl := exec_eventDec_iff.mp hdec
    rw [exec_eventEnc_iff, he]
    exact ⟨negotiationByte_eventsOf .., protectionByte_eventsOf ..⟩

end Sys2Proof.Machine
end

section
/-! `PdoDecode` and `PdoPack` as equations (R76 to R78, R150, R153): the answer for each tag, and the fields of a packed
word, which are those it was packed from. -/

namespace Sys2Proof.Machine

variable {c : Config} {w : Word32}

theorem pdoDecode_of_fixed_tag (h : pdoTag w = 0b00#2) : pdoDecode c w = some (.fixed (fixedPdoOf w)) :=
  if_pos h

theorem pdoDecode_of_pps_tag (h : pdoTag w = ppsTagBits c.ppsTag) : pdoDecode c w = some (.pps (ppsPdoOf w)) := by
  have hne : pdoTag w ≠ 0b00#2 := h ▸ ppsTagBits_ne_fixed c.ppsTag
  rw [pdoDecode, if_neg hne, if_pos h]

theorem pdoDecode_of_other_tag (hfix : pdoTag w ≠ 0b00#2) (hpps : pdoTag w ≠ ppsTagBits c.ppsTag) :
    pdoDecode c w = none := by
  rw [pdoDecode, if_neg hfix, if_neg hpps]

/-- The tag as a number: what the word's top two bits are worth decides it. -/
theorem pdoTag_eq_iff {x : BitVec 2} : pdoTag w = x ↔ w.toNat / 2 ^ 30 = x.toNat := by
  rw [← pdoTag_toNat, BitVec.toNat_inj]

/-- A field of a word is the value of its width that the word has at its bits. -/
theorem extractLsb'_eq_of_toNat {lo n : Nat} {x : BitVec n} (h : w.toNat / 2 ^ lo % 2 ^ n = x.toNat) :
    w.extractLsb' lo n = x :=
  BitVec.eq_of_toNat_eq ((field_toNat w lo n).trans h)

/-- The lowest field of a word as a number. -/
theorem low_field_toNat (w : Word32) (n : Nat) : (w.extractLsb' 0 n).toNat = w.toNat % 2 ^ n := by
  rw [field_toNat, pow_zero, Nat.div_one]

/-- Decoding reads the fields of a packed Fixed PDO back, and scales them. -/
theorem fixedPdoOf_pdoPackFixed (i v : BitVec 10) :
    fixedPdoOf (pdoPackFixed i v) = ⟨i, v, scale .pdoFixI i, scale .pdoFixV v⟩ := by
  have hword := pdoPackFixed_toNat i v
  have hi : (pdoPackFixed i v).extractLsb' 0 10 = i := extractLsb'_eq_of_toNat (by omega)
  have hv : (pdoPackFixed i v).extractLsb' 10 10 = v := extractLsb'_eq_of_toNat (by omega)
  simp only [fixedPdoOf, hi, hv]

/-- Decoding reads the fields of a packed PPS PDO back, and scales them. -/
theorem ppsPdoOf_pdoPackPps (c : Config) (i : BitVec 7) (lo hi : BitVec 8) (a : BitVec 2) :
    ppsPdoOf (pdoPackPps c i lo hi a) =
      ⟨i, lo, hi, a, scale .pdoPpsI i, scale .pdoPpsVmin lo, scale .pdoPpsVmax hi⟩ := by
  have hword := pdoPackPps_toNat c i lo hi a
  have hcur : (pdoPackPps c i lo hi a).extractLsb' 0 7 = i := extractLsb'_eq_of_toNat (by omega)
  have hmin : (pdoPackPps c i lo hi a).extractLsb' 8 8 = lo := extractLsb'_eq_of_toNat (by omega)
  have hmax : (pdoPackPps c i lo hi a).extractLsb' 17 8 = hi := extractLsb'_eq_of_toNat (by omega)
  have hsub : (pdoPackPps c i lo hi a).extractLsb' 28 2 = a := extractLsb'_eq_of_toNat (by omega)
  simp only [ppsPdoOf, hcur, hmin, hmax, hsub]

theorem pdoDecode_pdoPackFixed (c : Config) (i v : BitVec 10) : pdoDecode c (pdoPackFixed i v) =
    some (.fixed ⟨i, v, scale .pdoFixI i, scale .pdoFixV v⟩) := by
  rw [pdoDecode_of_fixed_tag (pdoTag_pdoPackFixed i v), fixedPdoOf_pdoPackFixed]

theorem pdoDecode_pdoPackPps (c : Config) (i : BitVec 7) (lo hi : BitVec 8) (a : BitVec 2) :
    pdoDecode c (pdoPackPps c i lo hi a) =
      some (.pps ⟨i, lo, hi, a, scale .pdoPpsI i, scale .pdoPpsVmin lo, scale .pdoPpsVmax hi⟩) := by
  rw [pdoDecode_of_pps_tag (pdoTag_pdoPackPps c i lo hi a), ppsPdoOf_pdoPackPps]

/-- Settles O33: the tag picks the equation of `pdoDecode`, the fields are numbers by `field_toNat`, and the record is
scaled. -/
theorem pdoDecodeUnpacksTheTaggedLayout : Obligations.PdoDecodeUnpacksTheTaggedLayout := by
  refine fun c w => ⟨fun htag => ?fixed, fun htag => ?pps, fun hfix hpps => ?other⟩
  case fixed =>
    exact ⟨_, pdoDecode_of_fixed_tag (pdoTag_eq_iff.mpr htag), low_field_toNat w 10, field_toNat w 10 10,
      fixedPdoOf_scaled w⟩
  case pps =>
    exact ⟨_, pdoDecode_of_pps_tag (pdoTag_eq_iff.mpr htag), low_field_toNat w 7, field_toNat w 8 8,
      field_toNat w 17 8, field_toNat w 28 2, ppsPdoOf_scaled w⟩
  case other => exact pdoDecode_of_other_tag (mt pdoTag_eq_iff.mp hfix) (mt pdoTag_eq_iff.mp hpps)

end Sys2Proof.Machine
end

section
/-! PDO_DEC and PDO_LIST_DEC (R151, R152): one entry of lane 0, or the entries of the first `cnt` lanes; the first word
that is not recognised decides the error. -/

open Sys2Proof.Claims

namespace Sys2Proof.Machine

variable {c : Config} {pay : Vector Byte 28}

theorem pdoDec_of_some {e : PdoRec} (h : pdoDecode c (laneWord c.wordOrder pay 0) = some e) :
    pdoDec c pay = .ok (.pdos [e]) := by
  simp only [pdoDec, h]

theorem pdoDec_of_none (h : pdoDecode c (laneWord c.wordOrder pay 0) = none) :
    pdoDec c pay = .error (.unrecognizedVariant 0) := by
  simp only [pdoDec, h]

/-- Settles O35: PDO_DEC answers by `pdoDecode` of lane 0. -/
theorem pdoDecDecodesLaneZero : Obligations.PdoDecDecodesLaneZero :=
  ⟨illegalFrom_of_legalSels_le (by decide), rfl, fun _ =>
    ⟨fun _ he => exec_eq_answered_iff.mpr (pdoDec_of_some he),
      fun hnone => exec_eq_answered_iff.mpr (pdoDec_of_none hnone)⟩⟩

/-- Settles O36: either tag gives an entry, which PDO_DEC answers. -/
theorem pdoDecCompletesOnRecognisedTags : Obligations.PdoDecCompletesOnRecognisedTags := by
  obtain ⟨-, -, hanswer⟩ := pdoDecDecodesLaneZero
  rintro s (hfix | hpps)
  · exact ⟨_, (hanswer s).left _ (pdoDecode_of_fixed_tag hfix)⟩
  · exact ⟨_, (hanswer s).left _ (pdoDecode_of_pps_tag hpps)⟩

/-- A list decode of recognised words succeeds. -/
theorem decodeWords_ok_of_forall {ws : List Word32} (h : ∀ w ∈ ws, pdoDecode c w ≠ none) (k : Nat) :
    ∃ es, decodeWords c k ws = .ok es := by
  induction ws generalizing k with
  | nil => exact ⟨[], rfl⟩
  | cons w ws ih =>
    obtain ⟨hw, hws⟩ := List.forall_mem_cons.mp h
    obtain ⟨e, he⟩ := Option.ne_none_iff_exists'.mp hw
    obtain ⟨es, hes⟩ := ih hws (k + 1)
    exact ⟨e :: es, by simp only [decodeWords, he, hes]⟩

/-- Entry `j` of a decoded list is the decoding of word `j`. -/
theorem decodeWords_getElem? {ws : List Word32} {k : Nat} {es : List PdoRec} (h : decodeWords c k ws = .ok es)
    (j : Nat) : es[j]? = ws[j]?.bind (pdoDecode c) := by
  calc es[j]?
    _ = (es.map some)[j]?.bind id := by rw [List.getElem?_map, Option.bind_map, Function.id_comp, Option.bind_fun_some]
    _ = (ws.map (pdoDecode c))[j]?.bind id := by rw [(decodeWords_ok_iff c ws k es).mp h]
    _ = ws[j]?.bind (pdoDecode c) := by rw [List.getElem?_map, Option.bind_map, Function.id_comp]

/-- Past recognised words, the first word that is not recognised ends a list decode with its position (R152, R212). -/
theorem decodeWords_error_of_first {pre post : List Word32} {w : Word32} (hpre : ∀ x ∈ pre, pdoDecode c x ≠ none)
    (hw : pdoDecode c w = none) (k : Nat) :
    decodeWords c k (pre ++ w :: post) = .error (.unrecognizedVariant (BitVec.ofNat 3 (k + pre.length))) := by
  induction pre generalizing k with
  | nil => simp only [List.nil_append, decodeWords, hw, List.length_nil, Nat.add_zero]
  | cons x pre ih =>
    obtain ⟨hx, hpre⟩ := List.forall_mem_cons.mp hpre
    obtain ⟨e, he⟩ := Option.ne_none_iff_exists'.mp hx
    simp only [List.cons_append, decodeWords, he, ih hpre (k + 1), List.length_cons, Nat.add_assoc, Nat.add_comm 1]

theorem length_laneWords (o : WordOrder) (pay : Vector Byte 28) (n : Nat) : (laneWords o pay n).length = n := by
  rw [laneWords, List.length_map, List.length_range]

theorem laneWords_getElem? {o : WordOrder} {n k : Nat} (h : k < n) :
    (laneWords o pay n)[k]? = some (laneWord o pay k) := by
  rw [laneWords, List.getElem?_map, List.getElem?_range h, Option.map_some]

/-- The first `n` lanes, cut at lane `k`. -/
theorem laneWords_eq_append (o : WordOrder) (pay : Vector Byte 28) {k n : Nat} (h : k < n) :
    ∃ post, laneWords o pay n = laneWords o pay k ++ laneWord o pay k :: post := by
  obtain ⟨m, rfl⟩ := Nat.exists_eq_add_of_lt h
  refine ⟨(List.range m).map fun j => laneWord o pay (k + (j + 1)), ?_⟩
  simp [laneWords, Nat.add_assoc, List.range_add, List.range_succ_eq_map]

theorem pdoListDec_of_cnt_gt {cnt : Byte} (h : 7 < cnt.toNat) : pdoListDec c pay cnt = .error .countOutOfRange :=
  if_pos h

/-- A count that is accepted leaves the answer to the list decode. -/
theorem pdoListDec_of_cnt_le {cnt : Byte} (h : cnt.toNat ≤ 7) :
    pdoListDec c pay cnt = (decodeWords c 1 (laneWords c.wordOrder pay cnt.toNat)).map .pdos := by
  have hcnt : ¬ cnt.toNat > nMax := Nat.not_lt.mpr h
  rw [pdoListDec, if_neg hcnt]
  cases decodeWords c 1 (laneWords c.wordOrder pay cnt.toNat) <;> rfl

/-- A property of the words of the first `n` lanes is one of each lane. -/
theorem forall_mem_laneWords {o : WordOrder} {n : Nat} {P : Word32 → Prop} :
    (∀ w ∈ laneWords o pay n, P w) ↔ ∀ k < n, P (laneWord o pay k) := by
  simp [laneWords]

/-- Settles O37: the list decode of the lanes, which ends at the first that is not recognised. -/
theorem pdoListDecDecodesTheFirstCntLanes : Obligations.PdoListDecDecodesTheFirstCntLanes := by
  refine ⟨illegalFrom_of_legalSels_le (by decide), rfl, fun s => ⟨fun hcnt hall => ?ok, fun hcnt => ?count,
    fun k hk hcnt hnone hbefore => ?unrecognised⟩⟩
  case ok =>
    obtain ⟨es, hes⟩ := decodeWords_ok_of_forall (forall_mem_laneWords.mpr hall) 1
    refine ⟨es, exec_eq_answered_iff.mpr ?_, ?_, fun k hk => ?_⟩
    · rw [execAnswer, pdoListDec_of_cnt_le hcnt, hes, Except.map]
    · rw [decodeWords_length hes, length_laneWords]
    · rw [decodeWords_getElem? hes, laneWords_getElem? hk, Option.bind_some, lane]
  case count => exact exec_eq_answered_iff.mpr (pdoListDec_of_cnt_gt hcnt)
  case unrecognised =>
    obtain ⟨post, hcut⟩ := laneWords_eq_append s.cfg.wordOrder s.inp.pay hk
    have hpre : ∀ w ∈ laneWords s.cfg.wordOrder s.inp.pay k, pdoDecode s.cfg w ≠ none :=
      forall_mem_laneWords.mpr hbefore
    have herr := decodeWords_error_of_first (w := laneWord s.cfg.wordOrder s.inp.pay k) (post := post) hpre hnone 1
    rw [exec_eq_answered_iff, execAnswer, pdoListDec_of_cnt_le hcnt, hcut, herr, length_laneWords, Except.map,
      Nat.add_comm]

end Sys2Proof.Machine
end

section
/-! PDO_PACK (R153, R155): both forms place operands that fit and refuse the others; what PDO_PACK.PPS packs, PDO_DEC
reads back. -/

open Sys2Proof.Claims

namespace Sys2Proof.Machine

variable {c : Config}

theorem pdoPackFixedOp_of_fits {fa fb : Word16} (ha : fa.toNat < 2 ^ 10) (hb : fb.toNat < 2 ^ 10) :
    pdoPackFixedOp c fa fb = .ok (packedWord c (pdoPackFixed (fa.setWidth 10) (fb.setWidth 10))) :=
  if_neg (by omega)

theorem pdoPackFixedOp_of_not_fits {fa fb : Word16} (h : 2 ^ 10 ≤ fa.toNat ∨ 2 ^ 10 ≤ fb.toNat) :
    pdoPackFixedOp c fa fb = .error .valueOutOfRange :=
  if_pos h

theorem pdoPackPpsOp_of_fits {fa fb fc fd : Word16} (ha : fa.toNat < 2 ^ 7) (hb : fb.toNat < 2 ^ 8)
    (hc : fc.toNat < 2 ^ 8) (hd : fd.toNat < 2 ^ 2) : pdoPackPpsOp c fa fb fc fd =
      .ok (packedWord c (pdoPackPps c (fa.setWidth 7) (fb.setWidth 8) (fc.setWidth 8) (fd.setWidth 2))) :=
  if_neg (by omega)

theorem pdoPackPpsOp_of_not_fits {fa fb fc fd : Word16}
    (h : 2 ^ 7 ≤ fa.toNat ∨ 2 ^ 8 ≤ fb.toNat ∨ 2 ^ 8 ≤ fc.toNat ∨ 2 ^ 2 ≤ fd.toNat) :
    pdoPackPpsOp c fa fb fc fd = .error .valueOutOfRange :=
  if_pos h

/-- A value that fits a field keeps its value in it. -/
theorem toNat_setWidth_of_fits {n m : Nat} {x : BitVec m} (h : x.toNat < 2 ^ n) : (x.setWidth n).toNat = x.toNat := by
  rw [BitVec.toNat_setWidth, Nat.mod_eq_of_lt h]

/-- Settles O38: the packed word as a sum, its fields the operands where they fit. -/
theorem pdoPackPlacesFieldsOrRefuses : Obligations.PdoPackPlacesFieldsOrRefuses := by
  refine ⟨illegalFrom_of_legalSels_le (by decide), rfl, rfl, fun s => ⟨fun ha hb => ?fixed,
    fun h => exec_eq_answered_iff.mpr (pdoPackFixedOp_of_not_fits h), fun ha hb hc hd => ?pps,
    fun h => exec_eq_answered_iff.mpr (pdoPackPpsOp_of_not_fits h)⟩⟩
  case fixed =>
    refine ⟨_, ?_, exec_eq_answered_iff.mpr (pdoPackFixedOp_of_fits ha hb)⟩
    rw [pdoPackFixed_toNat, toNat_setWidth_of_fits ha, toNat_setWidth_of_fits hb]
  case pps =>
    refine ⟨_, ?_, exec_eq_answered_iff.mpr (pdoPackPpsOp_of_fits ha hb hc hd)⟩
    rw [pdoPackPps_toNat, toNat_setWidth_of_fits ha, toNat_setWidth_of_fits hb, toNat_setWidth_of_fits hc,
      toNat_setWidth_of_fits hd]

/-- Fields put on the 16-bit operand ports fit, so PDO_PACK.PPS packs exactly them. -/
theorem pdoPackPpsOp_setWidth (c : Config) (i : BitVec 7) (lo hi : BitVec 8) (a : BitVec 2) :
    pdoPackPpsOp c (i.setWidth 16) (lo.setWidth 16) (hi.setWidth 16) (a.setWidth 16) =
      .ok (packedWord c (pdoPackPps c i lo hi a)) := by
  have hfits {n : Nat} (h : n ≤ 16) (x : BitVec n) : (x.setWidth 16).toNat < 2 ^ n := by
    rw [BitVec.toNat_setWidth_of_le h]
    exact x.isLt
  rw [pdoPackPpsOp_of_fits (hfits (by decide) i) (hfits (by decide) lo) (hfits (by decide) hi) (hfits (by decide) a)]
  simp

/-- A payload that starts with the bytes of a word has that word in lane 0. -/
theorem lane_zero_of_bytes4 {s : State} {w : Word32}
    (h : ∀ j : Fin 4, s.inp.pay[j.val] = (bytes4 s.cfg.wordOrder w)[j.val]) : lane s 0 = w := by
  calc lane s 0
    _ = wordOfBytes s.cfg.wordOrder s.inp.pay[0] s.inp.pay[1] s.inp.pay[2] s.inp.pay[3] :=
      laneWord_eq_wordOfBytes s.cfg.wordOrder s.inp.pay 0
    _ = wordOfBytes s.cfg.wordOrder (bytes4 s.cfg.wordOrder w)[0] (bytes4 s.cfg.wordOrder w)[1]
          (bytes4 s.cfg.wordOrder w)[2] (bytes4 s.cfg.wordOrder w)[3] := by
      congr 1
      exacts [h 0, h 1, h 2, h 3]
    _ = w := wordOfBytes_bytes4 s.cfg.wordOrder w

/-- Settles O40: the packed word stands in lane 0, and its tag alone decides that it is decoded. -/
theorem ppsFieldsAreCarriedUnchecked : Obligations.PpsFieldsAreCarriedUnchecked := by
  intro s t i lo hi a w bs hcfg ha hb hc hd hpack hpay
  rw [exec_eq_answered_iff, execAnswer, ha, hb, hc, hd, pdoPackPpsOp_setWidth] at hpack
  cases hpack
  rw [hcfg] at hpay
  have hdec := pdoDecode_pdoPackPps t.cfg i lo hi a
  rw [← lane_zero_of_bytes4 hpay] at hdec
  exact ⟨_, exec_eq_answered_iff.mpr (pdoDec_of_some hdec), rfl, rfl, rfl, rfl⟩

end Sys2Proof.Machine
end

section
/-! The round trips of the PDO codec (R154). A word is its fields put together; packing its decoding puts zeros where
the layout has reserved bits and leaves the rest. -/

namespace Sys2Proof.Machine

theorem eq_append_fixedPdo_fields (w : Word32) :
    w = w.extractLsb' 30 2 ++ w.extractLsb' 20 10 ++ w.extractLsb' 10 10 ++ w.extractLsb' 0 10 := by
  have := w.isLt
  apply BitVec.eq_of_toNat_eq
  simp only [append_toNat, field_toNat]
  omega

theorem eq_append_ppsPdo_fields (w : Word32) :
    w = w.extractLsb' 30 2 ++ w.extractLsb' 28 2 ++ w.extractLsb' 25 3 ++ w.extractLsb' 17 8 ++ w.extractLsb' 16 1 ++
      w.extractLsb' 8 8 ++ w.extractLsb' 7 1 ++ w.extractLsb' 0 7 := by
  have := w.isLt
  apply BitVec.eq_of_toNat_eq
  simp only [append_toNat, field_toNat]
  omega

/-- Clearing the reserved bits clears the one field between the tag and the voltage (R77). -/
theorem fixedPdo_fields_and_not_reserved (t : BitVec 2) (z v i : BitVec 10) :
    (t ++ z ++ v ++ i) &&& ~~~fixedPdoReserved = t ++ 0#10 ++ v ++ i := by
  change (t ++ z ++ v ++ i) &&& (BitVec.allOnes 2 ++ 0#10 ++ BitVec.allOnes 10 ++ BitVec.allOnes 10) = _
  simp only [BitVec.and_append, BitVec.and_allOnes, BitVec.and_zero]

/-- Clearing the reserved bits clears the three fields between the others (R78). -/
theorem ppsPdo_fields_and_not_reserved (t a : BitVec 2) (z : BitVec 3) (hi : BitVec 8) (y : BitVec 1) (lo : BitVec 8)
    (x : BitVec 1) (i : BitVec 7) : (t ++ a ++ z ++ hi ++ y ++ lo ++ x ++ i) &&& ~~~ppsPdoReserved =
      t ++ a ++ 0#3 ++ hi ++ 0#1 ++ lo ++ 0#1 ++ i := by
  change (t ++ a ++ z ++ hi ++ y ++ lo ++ x ++ i) &&& (BitVec.allOnes 2 ++ BitVec.allOnes 2 ++ 0#3 ++
    BitVec.allOnes 8 ++ 0#1 ++ BitVec.allOnes 8 ++ 0#1 ++ BitVec.allOnes 7) = _
  simp only [BitVec.and_append, BitVec.and_allOnes, BitVec.and_zero]

theorem pdoPackFixed_fixedPdoOf {w : Word32} (h : pdoTag w = 0b00#2) :
    pdoPackFixed (fixedPdoOf w).maxIRaw (fixedPdoOf w).vRaw = w &&& ~~~fixedPdoReserved := by
  conv_rhs => rw [eq_append_fixedPdo_fields w]
  rw [pdoPackFixed, ← h]
  exact (fixedPdo_fields_and_not_reserved ..).symm

theorem pdoPackPps_ppsPdoOf {c : Config} {w : Word32} (h : pdoTag w = ppsTagBits c.ppsTag) :
    pdoPackPps c (ppsPdoOf w).maxIRaw (ppsPdoOf w).minVRaw (ppsPdoOf w).maxVRaw (ppsPdoOf w).apdo =
      w &&& ~~~ppsPdoReserved := by
  conv_rhs => rw [eq_append_ppsPdo_fields w]
  rw [pdoPackPps, ← h]
  exact (ppsPdo_fields_and_not_reserved ..).symm

/-- The reserved bits of a capability entry's layout (R82). -/
def pdoReserved : PdoRec → Word32
  | .fixed _ => fixedPdoReserved
  | .pps _ => ppsPdoReserved

theorem pdoPack_of_pdoDecode {c : Config} {w : Word32} {r : PdoRec} (h : pdoDecode c w = some r) :
    pdoPack c r = w &&& ~~~pdoReserved r := by
  obtain ⟨htag, hdec⟩ | ⟨-, htag, hdec⟩ | ⟨-, -, hdec⟩ := pdoDecode_cases c w
  · cases hdec.symm.trans h
    exact pdoPackFixed_fixedPdoOf htag
  · cases hdec.symm.trans h
    exact pdoPackPps_ppsPdoOf htag
  · cases hdec.symm.trans h

/-- Every well-formed word decodes to an entry whose layout's reserved bits are zero in it. -/
theorem pdoDecode_of_wellFormed {c : Config} {w : Word32} (h : WellFormedPdo c w) :
    ∃ r, pdoDecode c w = some r ∧ w &&& pdoReserved r = 0 := by
  obtain ⟨htag, hres⟩ | ⟨htag, hres⟩ := h
  · exact ⟨_, pdoDecode_of_fixed_tag htag, hres⟩
  · exact ⟨_, pdoDecode_of_pps_tag htag, hres⟩

/-- Clearing bits that are zero changes nothing. -/
theorem and_not_eq_self {w m : Word32} (h : w &&& m = 0) : w &&& ~~~m = w := by
  calc w &&& ~~~m
    _ = (w &&& m) ||| (w &&& ~~~m) := by rw [h]; exact BitVec.zero_or.symm
    _ = w := by rw [← BitVec.and_or_distrib_left, BitVec.or_not_self, BitVec.and_allOnes]

/-- A scaled value is the only one with its raw value and step. -/
theorem scale_eq_of_toNat {n : Nat} {i : LutIndex} {raw : BitVec n} {p : Word16} (hw : (lut i).width = n)
    (h : p.toNat = raw.toNat * (lut i).step) : scale i raw = p :=
  BitVec.eq_of_toNat_eq ((scale_of_width i raw hw).trans h.symm)

theorem pdoDecode_pdoPack {c : Config} {r : PdoRec} (h : PdoScaled r) : pdoDecode c (pdoPack c r) = some r := by
  cases r with
  | fixed r =>
    obtain ⟨hI, hV⟩ := h
    have hI : scale .pdoFixI r.maxIRaw = r.maxIMA := scale_eq_of_toNat rfl hI
    have hV : scale .pdoFixV r.vRaw = r.vMV := scale_eq_of_toNat rfl hV
    rw [pdoPack, pdoDecode_pdoPackFixed, hI, hV]
  | pps r =>
    obtain ⟨hI, hmin, hmax⟩ := h
    have hI : scale .pdoPpsI r.maxIRaw = r.maxIMA := scale_eq_of_toNat rfl hI
    have hmin : scale .pdoPpsVmin r.minVRaw = r.minVMV := scale_eq_of_toNat rfl hmin
    have hmax : scale .pdoPpsVmax r.maxVRaw = r.maxVMV := scale_eq_of_toNat rfl hmax
    rw [pdoPack, pdoDecode_pdoPackPps, hI, hmin, hmax]

/-- Settles O39: packing a decoding clears the reserved bits, decoding a packing reads the fields back, and under
PPS_TAG = 0b01 the tags 2 and 3 are neither layout's. -/
theorem pdoRoundTrips : Obligations.PdoRoundTrips := by
  refine ⟨fun c w hwf => ?wellFormed, fun c w r hr => ?cleared, fun c r => pdoDecode_pdoPack,
    fun c w htag hw => ?noLayout⟩
  case wellFormed =>
    obtain ⟨r, hr, hres⟩ := pdoDecode_of_wellFormed hwf
    exact ⟨r, hr, (pdoPack_of_pdoDecode hr).trans (and_not_eq_self hres)⟩
  case cleared =>
    cases r with
    | fixed | pps => exact pdoPack_of_pdoDecode hr
  case noLayout =>
    have hlarge : 2 ≤ (pdoTag w).toNat := hw
    refine pdoDecode_of_other_tag ?_ ?_
    · intro h
      simp [h] at hlarge
    · intro h
      simp [h, htag, ppsTagBits] at hlarge

end Sys2Proof.Machine
end

section
/-! `RdoDecode` and `RdoPack` as equations (R79 to R81, R170, R171, R173): where each field stands, what a packed word
decodes to, and RDO_DEC, which is `RdoDecode` of lane 0. -/

open Sys2Proof.Claims

namespace Sys2Proof.Machine

/-- Settles O41: the fields are numbers by `field_toNat`, and either record is scaled. -/
theorem rdoDecodeUnpacksTheLayout : Obligations.RdoDecodeUnpacksTheLayout := fun w =>
  ⟨⟨_, rfl, low_field_toNat w 10, field_toNat w 10 10, field_toNat w 28 3, rdoDecode_scaled .fixed w⟩,
    ⟨_, rfl, low_field_toNat w 7, field_toNat w 9 11, field_toNat w 28 3, rdoDecode_scaled .pps w⟩⟩

/-- A field of `n` bits at bit `k` lies below bit `n + k`. -/
theorem toNat_mul_two_pow_lt {n : Nat} (x : BitVec n) (k : Nat) : x.toNat * 2 ^ k < 2 ^ (n + k) := by
  rw [pow_add]
  exact Nat.mul_lt_mul_of_pos_right x.isLt (Nat.two_pow_pos k)

/-- A field shifted to a place inside the word is worth its value times that place. -/
theorem setWidth_shiftLeft_toNat {n k : Nat} (x : BitVec n) (h : n + k ≤ 32) :
    (x.setWidth 32 <<< k).toNat = x.toNat * 2 ^ k := by
  have hfits : x.toNat * 2 ^ k < 2 ^ 32 :=
    (toNat_mul_two_pow_lt x k).trans_le (Nat.pow_le_pow_right (by decide) h)
  rw [BitVec.toNat_shiftLeft, BitVec.toNat_setWidth_of_le (by omega), Nat.shiftLeft_eq, Nat.mod_eq_of_lt hfits]

/-- Bits that lie below all those of another word are ORed to it as they are added. -/
theorem or_toNat_of_dvd {x y : Word32} {k : Nat} (hx : 2 ^ k ∣ x.toNat) (hy : y.toNat < 2 ^ k) :
    (x ||| y).toNat = x.toNat + y.toNat := by
  obtain ⟨q, hq⟩ := hx
  rw [BitVec.toNat_or, hq, Nat.two_pow_add_eq_or_of_lt hy]

/-- Three fields that lie one below the other are worth the sum of their values at their places. -/
theorem or_fields_toNat {l m n j k : Nat} (x : BitVec l) (y : BitVec m) (z : BitVec n) (hx : l + j ≤ 32)
    (hy : m + k ≤ j) (hz : n ≤ k) : (x.setWidth 32 <<< j ||| y.setWidth 32 <<< k ||| z.setWidth 32).toNat =
      x.toNat * 2 ^ j + y.toNat * 2 ^ k + z.toNat := by
  have hX : (x.setWidth 32 <<< j).toNat = x.toNat * 2 ^ j := setWidth_shiftLeft_toNat x hx
  have hY : (y.setWidth 32 <<< k).toNat = y.toNat * 2 ^ k := setWidth_shiftLeft_toNat y (by omega)
  have hZ : (z.setWidth 32).toNat = z.toNat := BitVec.toNat_setWidth_of_le (by omega)
  have hYlt : y.toNat * 2 ^ k < 2 ^ j := (toNat_mul_two_pow_lt y k).trans_le (Nat.pow_le_pow_right (by decide) hy)
  have hZlt : z.toNat < 2 ^ k := z.isLt.trans_le (Nat.pow_le_pow_right (by decide) hz)
  have hkj : 2 ^ k ∣ x.toNat * 2 ^ j := Dvd.dvd.mul_left (pow_dvd_pow 2 (by omega)) x.toNat
  have hXY : (x.setWidth 32 <<< j ||| y.setWidth 32 <<< k).toNat = x.toNat * 2 ^ j + y.toNat * 2 ^ k := by
    rw [or_toNat_of_dvd (hX ▸ Nat.dvd_mul_left ..) (hY ▸ hYlt), hX, hY]
  rw [or_toNat_of_dvd (hXY ▸ Nat.dvd_add hkj (Nat.dvd_mul_left ..)) (hZ ▸ hZlt), hXY, hZ]

/-- Settles O42: ORing the fields adds them, and the sum is the packed word's. -/
theorem rdoPackPlacesTheFields : Obligations.RdoPackPlacesTheFields :=
  ⟨fun m o p => BitVec.eq_of_toNat_eq ((rdoPackFixed_toNat m o p).trans
      (or_fields_toNat p o m (by decide) (by decide) (by decide)).symm),
    fun o v p => BitVec.eq_of_toNat_eq ((rdoPackPps_toNat o v p).trans
      (or_fields_toNat p v o (by decide) (by decide) (by decide)).symm)⟩

/-- Decoding reads the fields of a packed Fixed RDO back, and scales them. -/
theorem rdoDecode_rdoPackFixed (m o : BitVec 10) (p : BitVec 3) : rdoDecode .fixed (rdoPackFixed m o p) =
    .fixed ⟨m, o, p, scale .rdoFixImax m, scale .rdoFixIop o⟩ := by
  have hword := rdoPackFixed_toNat m o p
  have hm : (rdoPackFixed m o p).extractLsb' 0 10 = m := extractLsb'_eq_of_toNat (by omega)
  have ho : (rdoPackFixed m o p).extractLsb' 10 10 = o := extractLsb'_eq_of_toNat (by omega)
  simp only [rdoDecode, fixedRdoOf, hm, ho, rdoPackFixed_objPos]

/-- Decoding reads the fields of a packed PPS RDO back, and scales them. -/
theorem rdoDecode_rdoPackPps (o : BitVec 7) (v : BitVec 11) (p : BitVec 3) : rdoDecode .pps (rdoPackPps o v p) =
    .pps ⟨o, v, p, scale .rdoPpsIop o, scale .rdoPpsV v⟩ := by
  have hword := rdoPackPps_toNat o v p
  have ho : (rdoPackPps o v p).extractLsb' 0 7 = o := extractLsb'_eq_of_toNat (by omega)
  have hv : (rdoPackPps o v p).extractLsb' 9 11 = v := extractLsb'_eq_of_toNat (by omega)
  simp only [rdoDecode, ppsRdoOf, ho, hv, rdoPackPps_objPos]

/-- Settles O47: RDO_DEC has no check, so its answer is `rdoDecode` of lane 0. -/
theorem rdoDecDecodesLaneZero : Obligations.RdoDecDecodesLaneZero :=
  ⟨illegalFrom_of_legalSels_le (by decide), rfl, rfl, fun _ =>
    ⟨exec_eq_answered_iff.mpr rfl, exec_eq_answered_iff.mpr rfl⟩⟩

end Sys2Proof.Machine
end

section
/-! RDO_PACK (R174): both forms place operands that fit and refuse the others. -/

open Sys2Proof.Claims

namespace Sys2Proof.Machine

variable {c : Config} {fa fb fc : Word16}

theorem rdoPackFixedOp_of_fits (ha : fa.toNat < 2 ^ 10) (hb : fb.toNat < 2 ^ 10) (hc : fc.toNat < 2 ^ 3) :
    rdoPackFixedOp c fa fb fc =
      .ok (packedWord c (rdoPackFixed (fa.setWidth 10) (fb.setWidth 10) (fc.setWidth 3))) :=
  if_neg (by omega)

theorem rdoPackFixedOp_of_not_fits (h : 2 ^ 10 ≤ fa.toNat ∨ 2 ^ 10 ≤ fb.toNat ∨ 2 ^ 3 ≤ fc.toNat) :
    rdoPackFixedOp c fa fb fc = .error .valueOutOfRange :=
  if_pos h

theorem rdoPackPpsOp_of_fits (ha : fa.toNat < 2 ^ 7) (hb : fb.toNat < 2 ^ 11) (hc : fc.toNat < 2 ^ 3) :
    rdoPackPpsOp c fa fb fc =
      .ok (packedWord c (rdoPackPps (fa.setWidth 7) (fb.setWidth 11) (fc.setWidth 3))) :=
  if_neg (by omega)

theorem rdoPackPpsOp_of_not_fits (h : 2 ^ 7 ≤ fa.toNat ∨ 2 ^ 11 ≤ fb.toNat ∨ 2 ^ 3 ≤ fc.toNat) :
    rdoPackPpsOp c fa fb fc = .error .valueOutOfRange :=
  if_pos h

/-- Settles O48: the packed word as a sum, its fields the operands where they fit. -/
theorem rdoPackPlacesFieldsOrRefuses : Obligations.RdoPackPlacesFieldsOrRefuses := by
  refine ⟨illegalFrom_of_legalSels_le (by decide), rfl, rfl, fun s => ⟨fun ha hb hc => ?fixed,
    fun h => exec_eq_answered_iff.mpr (rdoPackFixedOp_of_not_fits h), fun ha hb hc => ?pps,
    fun h => exec_eq_answered_iff.mpr (rdoPackPpsOp_of_not_fits h)⟩⟩
  case fixed =>
    refine ⟨_, ?_, exec_eq_answered_iff.mpr (rdoPackFixedOp_of_fits ha hb hc)⟩
    rw [rdoPackFixed_toNat, toNat_setWidth_of_fits ha, toNat_setWidth_of_fits hb, toNat_setWidth_of_fits hc]
  case pps =>
    refine ⟨_, ?_, exec_eq_answered_iff.mpr (rdoPackPpsOp_of_fits ha hb hc)⟩
    rw [rdoPackPps_toNat, toNat_setWidth_of_fits ha, toNat_setWidth_of_fits hb, toNat_setWidth_of_fits hc]

end Sys2Proof.Machine
end

section
/-! The round trips of the RDO codec (R175): packing a decoding puts zeros where the layout has reserved bits and leaves
the rest; decoding a packing reads the fields back. -/

namespace Sys2Proof.Machine

theorem eq_append_fixedRdo_fields (w : Word32) : w = w.extractLsb' 31 1 ++ w.extractLsb' 28 3 ++ w.extractLsb' 20 8 ++
    w.extractLsb' 10 10 ++ w.extractLsb' 0 10 := by
  have := w.isLt
  apply BitVec.eq_of_toNat_eq
  simp only [append_toNat, field_toNat]
  omega

theorem eq_append_ppsRdo_fields (w : Word32) : w = w.extractLsb' 31 1 ++ w.extractLsb' 28 3 ++ w.extractLsb' 20 8 ++
    w.extractLsb' 9 11 ++ w.extractLsb' 7 2 ++ w.extractLsb' 0 7 := by
  have := w.isLt
  apply BitVec.eq_of_toNat_eq
  simp only [append_toNat, field_toNat]
  omega

/-- Clearing the reserved bits clears the two fields around the position (R79). -/
theorem fixedRdo_fields_and_not_reserved (t : BitVec 1) (p : BitVec 3) (z : BitVec 8) (o m : BitVec 10) :
    (t ++ p ++ z ++ o ++ m) &&& ~~~fixedRdoReserved = rdoPackFixed m o p := by
  change (t ++ p ++ z ++ o ++ m) &&& (0#1 ++ BitVec.allOnes 3 ++ 0#8 ++ BitVec.allOnes 10 ++ BitVec.allOnes 10) = _
  simp only [rdoPackFixed, BitVec.and_append, BitVec.and_allOnes, BitVec.and_zero]

/-- Clearing the reserved bits clears the two fields around the position and the one below the voltage (R80). -/
theorem ppsRdo_fields_and_not_reserved (t : BitVec 1) (p : BitVec 3) (z : BitVec 8) (v : BitVec 11) (y : BitVec 2)
    (o : BitVec 7) : (t ++ p ++ z ++ v ++ y ++ o) &&& ~~~ppsRdoReserved = rdoPackPps o v p := by
  change (t ++ p ++ z ++ v ++ y ++ o) &&&
    (0#1 ++ BitVec.allOnes 3 ++ 0#8 ++ BitVec.allOnes 11 ++ 0#2 ++ BitVec.allOnes 7) = _
  simp only [rdoPackPps, BitVec.and_append, BitVec.and_allOnes, BitVec.and_zero]

theorem rdoPack_rdoDecode (v : Variant) (w : Word32) : rdoPack (rdoDecode v w) = w &&& ~~~rdoReserved v := by
  cases v with
  | fixed =>
    conv_rhs => rw [eq_append_fixedRdo_fields w]
    exact (fixedRdo_fields_and_not_reserved ..).symm
  | pps =>
    conv_rhs => rw [eq_append_ppsRdo_fields w]
    exact (ppsRdo_fields_and_not_reserved ..).symm

theorem rdoDecode_rdoPack {r : RdoRec} (h : RdoScaled r) : rdoDecode (rdoVariant r) (rdoPack r) = r := by
  cases r with
  | fixed r =>
    obtain ⟨hmax, hop⟩ := h
    have hmax : scale .rdoFixImax r.maxIRaw = r.maxIMA := scale_eq_of_toNat rfl hmax
    have hop : scale .rdoFixIop r.opIRaw = r.opIMA := scale_eq_of_toNat rfl hop
    rw [rdoVariant, rdoPack, rdoDecode_rdoPackFixed, hmax, hop]
  | pps r =>
    obtain ⟨hop, hv⟩ := h
    have hop : scale .rdoPpsIop r.opIRaw = r.opIMA := scale_eq_of_toNat rfl hop
    have hv : scale .rdoPpsV r.vRaw = r.vMV := scale_eq_of_toNat rfl hv
    rw [rdoVariant, rdoPack, rdoDecode_rdoPackPps, hop, hv]

/-- Settles O49: packing a decoding clears the reserved bits, and decoding a packing reads the fields back. -/
theorem rdoRoundTrips : Obligations.RdoRoundTrips := by
  refine ⟨fun v w hwf => (rdoPack_rdoDecode v w).trans (and_not_eq_self hwf), fun v w => ?_, fun r => rdoDecode_rdoPack⟩
  cases v with
  | fixed | pps => exact rdoPack_rdoDecode _ w

end Sys2Proof.Machine
end

section
/-! RDO_ENC (R172, R176, R212). Its checks select the entry at `pos`; the request is then built against that entry, and
succeeds exactly for the values that are whole steps within the entry's limits. -/

open Sys2Proof.Claims

namespace Sys2Proof.Machine

variable {c : Config} {pay : Vector Byte 28} {cnt pos : Byte} {reqI reqV : Word16} {r : Result}

/-- The count and the position that RDO_ENC accepts (R172). -/
def PosInList (cnt pos : Byte) : Prop := cnt.toNat ≤ 7 ∧ 1 ≤ pos.toNat ∧ pos.toNat ≤ cnt.toNat

/-- What RDO_ENC answers once it has selected an entry (R172). -/
def requestAgainst (c : Config) (pos : Byte) (reqI reqV : Word16) : PdoRec → Except Err Result
  | .fixed e => requestFixed c e pos reqI
  | .pps e => requestPps c e pos reqI reqV

theorem PosInList.pos_field (h : PosInList cnt pos) : (pos.setWidth 3).toNat = pos.toNat := by
  obtain ⟨hcnt, -, hle⟩ := h
  exact toNat_setWidth_of_fits (by omega)

theorem rdoEnc_of_cnt_gt (h : 7 < cnt.toNat) : rdoEnc c pay cnt pos reqI reqV = .error .countOutOfRange :=
  if_pos h

theorem rdoEnc_of_pos_outside (hcnt : cnt.toNat ≤ 7) (h : pos.toNat = 0 ∨ cnt.toNat < pos.toNat) :
    rdoEnc c pay cnt pos reqI reqV = .error .positionOutOfBounds := by
  have hcnt : ¬ cnt.toNat > nMax := Nat.not_lt.mpr hcnt
  rw [rdoEnc, if_neg hcnt, if_pos h]

theorem rdoEnc_of_none (hin : PosInList cnt pos) (h : pdoDecode c (laneWord c.wordOrder pay (pos.toNat - 1)) = none) :
    rdoEnc c pay cnt pos reqI reqV = .error (.unrecognizedVariant (pos.setWidth 3)) := by
  obtain ⟨hcnt, hlo, hhi⟩ := hin
  have hcnt : ¬ cnt.toNat > nMax := Nat.not_lt.mpr hcnt
  have hpos : ¬ (pos.toNat = 0 ∨ pos.toNat > cnt.toNat) := by omega
  simp only [rdoEnc, if_neg hcnt, if_neg hpos, h]

theorem rdoEnc_of_some (hin : PosInList cnt pos) {e : PdoRec}
    (h : pdoDecode c (laneWord c.wordOrder pay (pos.toNat - 1)) = some e) :
    rdoEnc c pay cnt pos reqI reqV = requestAgainst c pos reqI reqV e := by
  obtain ⟨hcnt, hlo, hhi⟩ := hin
  have hcnt : ¬ cnt.toNat > nMax := Nat.not_lt.mpr hcnt
  have hpos : ¬ (pos.toNat = 0 ∨ pos.toNat > cnt.toNat) := by omega
  cases e with
  | fixed | pps => simp only [rdoEnc, if_neg hcnt, if_neg hpos, h, requestAgainst]

/-- RDO_ENC builds nothing but requests against the entry at a position in the list. -/
theorem rdoEnc_ok_selects (h : rdoEnc c pay cnt pos reqI reqV = .ok r) : PosInList cnt pos ∧
    ∃ e, pdoDecode c (laneWord c.wordOrder pay (pos.toNat - 1)) = some e ∧ requestAgainst c pos reqI reqV e = .ok r := by
  by_cases hcnt : 7 < cnt.toNat
  · cases (rdoEnc_of_cnt_gt hcnt).symm.trans h
  have hcnt : cnt.toNat ≤ 7 := Nat.not_lt.mp hcnt
  by_cases hpos : pos.toNat = 0 ∨ cnt.toNat < pos.toNat
  · cases (rdoEnc_of_pos_outside hcnt hpos).symm.trans h
  have hin : PosInList cnt pos := ⟨hcnt, by omega, by omega⟩
  cases hdec : pdoDecode c (laneWord c.wordOrder pay (pos.toNat - 1)) with
  | none => cases (rdoEnc_of_none hin hdec).symm.trans h
  | some e => exact ⟨hin, e, rfl, (rdoEnc_of_some hin hdec).symm.trans h⟩

theorem toNat_ofNat_of_fits {n x : Nat} (h : x < 2 ^ n) : (BitVec.ofNat n x).toNat = x := by
  rw [BitVec.toNat_ofNat, Nat.mod_eq_of_lt h]

/-- Dividing a raw value times its step by the step gives the raw value back. -/
theorem ofNat_div_step {n x step : Nat} {raw : BitVec n} (h : x = raw.toNat * step) (hpos : 0 < step) :
    BitVec.ofNat n (x / step) = raw := by
  rw [h, Nat.mul_div_cancel _ hpos, BitVec.ofNat_toNat, BitVec.setWidth_eq]

/-- A request against a Fixed entry succeeds for a whole number of 10 mA steps up to the entry's maximum, and only then;
it carries that number. -/
theorem requestFixed_eq_ok_iff {e : FixedPdo} : requestFixed c e pos reqI = .ok r ↔
    ∃ o : BitVec 10, reqI.toNat = o.toNat * 10 ∧ o.toNat ≤ e.maxIRaw.toNat ∧
      r = requestOf c .fixed (rdoPackFixed (fixedRequestMax c o e.maxIRaw) o (pos.setWidth 3)) := by
  constructor
  · intro h
    obtain ⟨-, hr⟩ | ⟨-, -, hr⟩ | ⟨hstep, hmax, hr⟩ := requestFixed_cases c e pos reqI
    · cases hr.symm.trans h
    · cases hr.symm.trans h
    · cases hr.symm.trans h
      have ho : (BitVec.ofNat 10 (reqI.toNat / 10)).toNat = reqI.toNat / 10 :=
        toNat_ofNat_of_fits (hmax.trans_lt e.maxIRaw.isLt)
      exact ⟨_, by omega, by omega, rfl⟩
  · rintro ⟨o, hreq, hmax, rfl⟩
    have ho : BitVec.ofNat 10 (reqI.toNat / 10) = o := ofNat_div_step hreq (by decide)
    obtain ⟨hstep, -⟩ | ⟨-, habove, -⟩ | ⟨-, -, hr⟩ := requestFixed_cases c e pos reqI
    · omega
    · omega
    · rw [hr, ho]

/-- A request against a PPS entry succeeds for whole numbers of steps within the entry's limits, and only then; it carries
those numbers. The voltage fits its field because no entry's maximum exceeds 25.5 V. -/
theorem requestPps_eq_ok_iff {e : PpsPdo} (he : PdoScaled (.pps e)) : requestPps c e pos reqI reqV = .ok r ↔
    ∃ (o : BitVec 7) (v : BitVec 11), reqI.toNat = o.toNat * 50 ∧ reqV.toNat = v.toNat * 20 ∧
      o.toNat ≤ e.maxIRaw.toNat ∧ e.minVMV.toNat ≤ reqV.toNat ∧ reqV.toNat ≤ e.maxVMV.toNat ∧
      r = requestOf c .pps (rdoPackPps o v (pos.setWidth 3)) := by
  obtain ⟨-, -, hVmax⟩ := he
  constructor
  · intro h
    obtain ⟨-, hr⟩ | ⟨-, -, -, hr⟩ | ⟨hstepI, hstepV, hmax, hlo, hhi, hr⟩ := requestPps_cases c e pos reqI reqV
    · cases hr.symm.trans h
    · cases hr.symm.trans h
    · cases hr.symm.trans h
      have ho : (BitVec.ofNat 7 (reqI.toNat / 50)).toNat = reqI.toNat / 50 :=
        toNat_ofNat_of_fits (hmax.trans_lt e.maxIRaw.isLt)
      have hv : (BitVec.ofNat 11 (reqV.toNat / 20)).toNat = reqV.toNat / 20 := toNat_ofNat_of_fits (by omega)
      exact ⟨_, _, by omega, by omega, by omega, hlo, hhi, rfl⟩
  · rintro ⟨o, v, hreqI, hreqV, hmax, hlo, hhi, rfl⟩
    have ho : BitVec.ofNat 7 (reqI.toNat / 50) = o := ofNat_div_step hreqI (by decide)
    have hv : BitVec.ofNat 11 (reqV.toNat / 20) = v := ofNat_div_step hreqV (by decide)
    obtain ⟨hstep, -⟩ | ⟨-, -, houtside, -⟩ | ⟨-, -, -, -, -, hr⟩ := requestPps_cases c e pos reqI reqV
    · omega
    · omega
    · rw [hr, ho, hv]

/-- The max-current field lies between the requested current and the entry's maximum, whatever FIXED_RDO_MAX says (R172). -/
theorem fixedRequestMax_between {op maxI : BitVec 10} (h : op.toNat ≤ maxI.toNat) :
    op.toNat ≤ (fixedRequestMax c op maxI).toNat ∧ (fixedRequestMax c op maxI).toNat ≤ maxI.toNat := by
  unfold fixedRequestMax
  split
  · exact ⟨le_rfl, h⟩
  · exact ⟨h, le_rfl⟩

theorem requestOf_rdoPackFixed (m o : BitVec 10) (p : BitVec 3) : requestOf c .fixed (rdoPackFixed m o p) =
    .request (.fixed ⟨m, o, p, scale .rdoFixImax m, scale .rdoFixIop o⟩) (rdoPackFixed m o p)
      (bytes4 c.wordOrder (rdoPackFixed m o p)) := by
  rw [requestOf, rdoDecode_rdoPackFixed]

theorem requestOf_rdoPackPps (o : BitVec 7) (v : BitVec 11) (p : BitVec 3) : requestOf c .pps (rdoPackPps o v p) =
    .request (.pps ⟨o, v, p, scale .rdoPpsIop o, scale .rdoPpsV v⟩) (rdoPackPps o v p)
      (bytes4 c.wordOrder (rdoPackPps o v p)) := by
  rw [requestOf, rdoDecode_rdoPackPps]

/-- Settles O43: the current as a 10-bit number meets `requestFixed_eq_ok_iff`. -/
theorem rdoEncBuildsAFixedRequest : Obligations.RdoEncBuildsAFixedRequest := by
  intro s e o hcnt hlo hhi hdec hreq hmax
  have hin : PosInList s.inp.cnt s.inp.pos := ⟨hcnt, hlo, hhi⟩
  have ho : (BitVec.ofNat 10 o).toNat = o := toNat_ofNat_of_fits (hmax.trans_lt e.maxIRaw.isLt)
  have hreq : s.inp.reqI.toNat = (BitVec.ofNat 10 o).toNat * 10 := by omega
  have hok := (requestFixed_eq_ok_iff (c := s.cfg) (pos := s.inp.pos)).mpr ⟨_, hreq, ho.trans_le hmax, rfl⟩
  rw [requestOf_rdoPackFixed] at hok
  refine ⟨_, _, exec_eq_answered_iff.mpr ((rdoEnc_of_some hin hdec).trans hok), ho, scale_eq_of_toNat rfl hreq,
    hin.pos_field, ?maxField, scale_of_width .rdoFixImax _ rfl, ?word⟩
  case maxField =>
    unfold fixedRequestMax
    cases s.cfg.fixedRdoMax with
    | requested => exact ho
    | pdoMax => rfl
  case word => rw [rdoPackFixed_toNat, hin.pos_field, ho]

/-- Settles O44: the current and the voltage as numbers of their widths meet `requestPps_eq_ok_iff`. -/
theorem rdoEncBuildsAPpsRequest : Obligations.RdoEncBuildsAPpsRequest := by
  intro s e o v hcnt hlo hhi hdec hreqI hreqV hmax hVlo hVhi
  have hin : PosInList s.inp.cnt s.inp.pos := ⟨hcnt, hlo, hhi⟩
  obtain ⟨-, hminV, hmaxV⟩ := pdoDecode_scaled hdec
  have ho : (BitVec.ofNat 7 o).toNat = o := toNat_ofNat_of_fits (hmax.trans_lt e.maxIRaw.isLt)
  have hv : (BitVec.ofNat 11 v).toNat = v := toNat_ofNat_of_fits (by omega)
  have hreqI : s.inp.reqI.toNat = (BitVec.ofNat 7 o).toNat * 50 := by omega
  have hreqV : s.inp.reqV.toNat = (BitVec.ofNat 11 v).toNat * 20 := by omega
  have hok := (requestPps_eq_ok_iff (c := s.cfg) (pos := s.inp.pos) (pdoDecode_scaled hdec)).mpr
    ⟨_, _, hreqI, hreqV, ho.trans_le hmax, by omega, by omega, rfl⟩
  rw [requestOf_rdoPackPps] at hok
  refine ⟨_, _, exec_eq_answered_iff.mpr ((rdoEnc_of_some hin hdec).trans hok), ho, hv, scale_eq_of_toNat rfl hreqI,
    scale_eq_of_toNat rfl hreqV, hin.pos_field, ?_⟩
  rw [rdoPackPps_toNat, hin.pos_field, ho, hv]

theorem requestFixed_of_off_step {e : FixedPdo} (h : reqI.toNat % 10 ≠ 0) :
    requestFixed c e pos reqI = .error .notExactStep :=
  if_pos h

theorem requestFixed_of_above_max {e : FixedPdo} (hstep : reqI.toNat % 10 = 0)
    (h : e.maxIRaw.toNat * 10 < reqI.toNat) : requestFixed c e pos reqI = .error .valueOutOfRange := by
  obtain ⟨hoff, -⟩ | ⟨-, -, hr⟩ | ⟨-, hwithin, -⟩ := requestFixed_cases c e pos reqI
  · exact absurd hstep hoff
  · exact hr
  · omega

theorem requestPps_of_off_step {e : PpsPdo} (h : reqI.toNat % 50 ≠ 0 ∨ reqV.toNat % 20 ≠ 0) :
    requestPps c e pos reqI reqV = .error .notExactStep := by
  obtain ⟨-, hr⟩ | ⟨hI, hV, -⟩ | ⟨hI, hV, -⟩ := requestPps_cases c e pos reqI reqV
  · exact hr
  · omega
  · omega

theorem requestPps_of_outside {e : PpsPdo} (he : PdoScaled (.pps e)) (hI : reqI.toNat % 50 = 0)
    (hV : reqV.toNat % 20 = 0) (h : e.maxIRaw.toNat * 50 < reqI.toNat ∨ reqV.toNat < e.minVRaw.toNat * 100 ∨
      e.maxVRaw.toNat * 100 < reqV.toNat) : requestPps c e pos reqI reqV = .error .valueOutOfRange := by
  obtain ⟨-, hmin, hmax⟩ := he
  obtain ⟨hoff, -⟩ | ⟨-, -, -, hr⟩ | ⟨-, -, hwithinI, hlo, hhi, -⟩ := requestPps_cases c e pos reqI reqV
  · omega
  · exact hr
  · omega

/-- Settles O45: one equation of `rdoEnc`, or of the request against the selected entry, for each check. -/
theorem rdoEncRaisesTheFirstError : Obligations.RdoEncRaisesTheFirstError := by
  refine fun s => ⟨fun hcnt => exec_eq_answered_iff.mpr (rdoEnc_of_cnt_gt hcnt), fun hcnt =>
    ⟨fun hpos => exec_eq_answered_iff.mpr (rdoEnc_of_pos_outside hcnt hpos), fun hlo hhi => ?selected⟩⟩
  have hin : PosInList s.inp.cnt s.inp.pos := ⟨hcnt, hlo, hhi⟩
  have answers {e : PdoRec} {x : Err} (hdec : pdoDecode s.cfg (lane s (s.inp.pos.toNat - 1)) = some e)
      (h : requestAgainst s.cfg s.inp.pos s.inp.reqI s.inp.reqV e = .error x) :
      exec .rdoEnc s = .next (answered s (.error x)) :=
    exec_eq_answered_iff.mpr ((rdoEnc_of_some hin hdec).trans h)
  refine ⟨fun hdec => exec_eq_answered_iff.mpr (rdoEnc_of_none hin hdec), fun e hdec => ⟨?_, ?_⟩,
    fun e hdec => ⟨?_, ?_⟩⟩
  · exact fun hstep => answers hdec (requestFixed_of_off_step hstep)
  · exact fun hstep habove => answers hdec (requestFixed_of_above_max hstep habove)
  · exact fun hstep => answers hdec (requestPps_of_off_step hstep)
  · exact fun hI hV houtside => answers hdec (requestPps_of_outside (pdoDecode_scaled hdec) hI hV houtside)

/-- Settles O46: a request that is given was built against the entry at `pos`, from the numbers of steps that are exactly
the requested values. -/
theorem rdoEncNeverClampsOrRounds : Obligations.RdoEncNeverClampsOrRounds := by
  intro s r w bs h
  have hok := exec_eq_answered_iff.mp h
  obtain ⟨-, hrec, -, -, hbs⟩ := execAnswer_ok_sound hok
  obtain ⟨hin, e, hdec, hreq⟩ := rdoEnc_ok_selects hok
  have hpos := hin.pos_field
  obtain ⟨hcnt, hlo, hhi⟩ := hin
  have hlane : pdoDecode s.cfg (lane s (s.inp.pos.toNat - 1)) = some e := hdec
  rw [hlane]
  refine ⟨hrec, hbs, ?_⟩
  cases e with
  | fixed e =>
    obtain ⟨o, hI, hmax, hr⟩ := requestFixed_eq_ok_iff.mp hreq
    rw [requestOf_rdoPackFixed] at hr
    cases hr
    obtain ⟨hop, hmaxField⟩ := fixedRequestMax_between (c := s.cfg) hmax
    exact ⟨hpos, hlo, hhi, hcnt, scale_eq_of_toNat rfl hI, hop, hmaxField⟩
  | pps e =>
    obtain ⟨o, v, hI, hV, hmax, hVlo, hVhi, hr⟩ := (requestPps_eq_ok_iff (pdoDecode_scaled hdec)).mp hreq
    rw [requestOf_rdoPackPps] at hr
    cases hr
    have hvolt : scale .rdoPpsV v = s.inp.reqV := scale_eq_of_toNat rfl hV
    exact ⟨hpos, hlo, hhi, hcnt, scale_eq_of_toNat rfl hI, hvolt, hmax, hvolt ▸ hVlo, hvolt ▸ hVhi⟩

end Sys2Proof.Machine
end

section
/-! The register address ROM (R200 to R202): the ROM against R200's table as a finite relation, ADDR_LOOKUP against the
ROM, and the decoding command of each register. -/

open Sys2Proof.Claims

namespace Sys2Proof.Machine

/-- The entry of each row of R200's table stands at the row's address. -/
theorem addrRom_of_mem_romRows : ∀ row ∈ romRows, addrRom (BitVec.ofNat 8 row.1) = some row.2.1 := by
  decide

/-- The ROM is R200's table: each entry is the entry of a row, at the address of that row. -/
theorem addrRom_eq_some_iff {a : Byte} {x : AddrRec} :
    addrRom a = some x ↔ ∃ row ∈ romRows, a.toNat = row.1 ∧ x = row.2.1 := by
  constructor
  · intro h
    unfold addrRom at h
    split at h <;> cases h <;> simp [romRows, *]
  · rintro ⟨row, hrow, haddr, rfl⟩
    have ha : BitVec.ofNat 8 row.1 = a := by rw [← haddr, BitVec.ofNat_toNat, BitVec.setWidth_eq]
    exact ha ▸ addrRom_of_mem_romRows row hrow

theorem addrRom_isSome_iff (a : Byte) : (addrRom a).isSome = true ↔ a.toNat ∈ romRows.map Prod.fst := by
  simp only [Option.isSome_iff_exists, addrRom_eq_some_iff, List.mem_map]
  constructor
  · rintro ⟨_, row, hrow, haddr, -⟩
    exact ⟨row, hrow, haddr.symm⟩
  · rintro ⟨row, hrow, haddr⟩
    exact ⟨_, row, hrow, haddr.symm, rfl⟩

/-- A 16-bit value is its two halves, the ones ADDR_LOOKUP reads. -/
theorem toNat_eq_halves (v : Word16) : v.toNat = (v.extractLsb' 8 8).toNat * 256 + (v.extractLsb' 0 8).toNat := by
  have := v.isLt
  simp only [BitVec.extractLsb'_toNat, Nat.shiftRight_eq_div_pow]
  omega

/-- A value is an 8-bit address exactly when its high half is 0 and its low half is that address. -/
theorem toNat_eq_byte_iff {v : Word16} {a : Byte} :
    v.toNat = a.toNat ↔ v.extractLsb' 8 8 = 0 ∧ v.extractLsb' 0 8 = a := by
  have := a.isLt
  have := (v.extractLsb' 0 8).isLt
  rw [toNat_eq_halves, ← BitVec.toNat_inj, ← BitVec.toNat_inj, BitVec.ofNat_eq_ofNat, BitVec.toNat_zero]
  omega

theorem addrLookup_of_addrRom_some {v : Word16} {a : Byte} {x : AddrRec} (hv : v.toNat = a.toNat)
    (hx : addrRom a = some x) : addrLookup v = .ok (.addr x) := by
  obtain ⟨hhigh, hlow⟩ := toNat_eq_byte_iff.mp hv
  simp only [addrLookup, hhigh, hlow, hx, ne_eq, not_true_eq_false, if_false]

/-- A value that is the address of no entry, a value above 8 bits among them, is refused (R201). -/
theorem addrLookup_of_no_entry {v : Word16} (h : ∀ a : Byte, v.toNat = a.toNat → addrRom a = none) :
    addrLookup v = .error .unknownAddress := by
  unfold addrLookup
  split
  · rfl
  · rename_i hhigh
    rw [h _ (toNat_eq_byte_iff.mpr ⟨not_not.mp hhigh, rfl⟩)]

/-- At the address of a row of R200's table, ADDR_LOOKUP gives the row's entry. -/
theorem addrLookup_of_mem_romRows {row : Nat × AddrRec × BitVec 4 × BitVec 2} (hrow : row ∈ romRows) {v : Word16}
    (hv : v.toNat = row.1) : addrLookup v = .ok (.addr row.2.1) := by
  have hsmall : ∀ row ∈ romRows, row.1 < 2 ^ 8 := by decide
  have hv : v.toNat = (BitVec.ofNat 8 row.1).toNat := hv.trans (toNat_ofNat_of_fits (hsmall row hrow)).symm
  exact addrLookup_of_addrRom_some hv (addrRom_of_mem_romRows row hrow)

/-- Settles O51: a listed address has its row's entry, and a value with an entry would be a listed address. -/
theorem addrLookupFindsTheEightRegisters : Obligations.AddrLookupFindsTheEightRegisters := by
  refine ⟨illegalFrom_of_legalSels_le (by decide), rfl, rfl,
    fun row hrow s hval => exec_eq_answered_iff.mpr (addrLookup_of_mem_romRows hrow hval),
    fun s hval => exec_eq_answered_iff.mpr (addrLookup_of_no_entry fun a ha => ?_)⟩
  rw [ha, ← addrRom_isSome_iff] at hval
  exact Option.not_isSome_iff_eq_none.mp hval

/-- R200's codes of the shape and the access direction of each entry are the ones on the wires. -/
theorem addrWire_of_mem_romRows : ∀ row ∈ romRows, addrWire row.2.1 =
    { shape := row.2.2.1, elemSize := row.2.1.elemSize, maxElems := row.2.1.maxElems,
      access := row.2.2.2, decCmd := row.2.1.decCmd } := by
  decide

/-- Settles O52: the recorded answer is the row's entry, and its wire form drives the row's columns. -/
theorem addrLookupDrivesTheRomCodes : Obligations.AddrLookupDrivesTheRomCodes := by
  refine ⟨addrRom_isSome_iff, fun row hrow s hval => ?_⟩
  have hexec : exec .addrLookup s = .next (s.record (.ok (.addr row.2.1))) :=
    exec_eq_answered_iff.mpr (addrLookup_of_mem_romRows hrow hval)
  exact ⟨_, _, hexec, outPorts_record s _, addrWire_of_mem_romRows row hrow⟩

/-- Every register but the count has the word of a command as its decoding command. -/
theorem decCmd_eq_encode_of_mem_romRows : ∀ row ∈ romRows, row.1 ≠ 0x1C →
    ∃ p ∈ legalWords, encode p.2 = row.2.1.decCmd := by
  decide

/-- The count's decoding command, 0xFF, has a reserved OP and so is no command (R200, R202). -/
theorem decode_ff_ne_ok : ∀ i, decode 0xFF ≠ .ok i :=
  decode_ne_ok_of_illegal_sel (by decide)

/-- Settles O53: the seven entries by their words, and no other entry than the count's names 0xFF. -/
theorem everyRegisterHasItsDecoder : Obligations.EveryRegisterHasItsDecoder := by
  constructor
  · simp only [List.forall_mem_cons]
    exact ⟨⟨_, rfl, decode_encode .pdoListDec⟩, ⟨_, rfl, decode_encode .statusDec⟩, ⟨_, rfl, decode_encode .eventDec⟩,
      ⟨_, rfl, decode_encode .unitDecStatV⟩, ⟨_, rfl, decode_encode .unitDecStatI⟩,
      ⟨_, rfl, decode_encode .unitDecStatT⟩, ⟨_, rfl, decode_encode .rdoDecFixed⟩, List.forall_mem_nil _⟩
  · intro a r hr
    constructor
    · intro hno
      by_contra hne
      obtain ⟨row, hrow, haddr, rfl⟩ := addrRom_eq_some_iff.mp hr
      have hcount : row.1 ≠ 0x1C := fun h => hne (BitVec.eq_of_toNat_eq (haddr.trans h))
      obtain ⟨p, -, hp⟩ := decCmd_eq_encode_of_mem_romRows row hrow hcount
      exact hno p.2 (hp ▸ decode_encode p.2)
    · rintro rfl
      cases hr
      exact decode_ff_ne_ok

end Sys2Proof.Machine
end

section
/-! Errors (R210 to R214): the errors each operation can answer, against R210's table; the ports after one; and a later
transaction's answer, which no earlier one affects. -/

open Sys2Proof.Claims

namespace Sys2Proof.Machine

variable {c : Config} {pay : Vector Byte 28} {cnt pos : Byte} {reqI reqV : Word16} {e : Err}

/-- A width check in front of a result raises ValueOutOfRange alone. -/
theorem eq_valueOutOfRange_of_guard {P : Prop} [Decidable P] {r : Result}
    (h : (if P then .error .valueOutOfRange else .ok r : Except Err Result) = .error e) : e = .valueOutOfRange := by
  split at h <;> cases h
  rfl

theorem unitEnc_error {i : LutIndex} {v : Word16} (h : unitEnc i v = .error e) :
    e = .notExactStep ∨ e = .valueOutOfRange := by
  obtain ⟨-, hr⟩ | ⟨-, -, hr⟩ | ⟨-, -, hr⟩ := unscale_cases i v
  · simp only [unitEnc, hr, Except.error.injEq] at h
    exact .inl h.symm
  · simp only [unitEnc, hr, Except.error.injEq] at h
    exact .inr h.symm
  · simp [unitEnc, hr] at h

theorem pdoDec_error (h : pdoDec c pay = .error e) : e = .unrecognizedVariant 0 := by
  cases hdec : pdoDecode c (laneWord c.wordOrder pay 0) with
  | some x => cases (pdoDec_of_some hdec).symm.trans h
  | none =>
    cases (pdoDec_of_none hdec).symm.trans h
    rfl

/-- A recorded position of 1 or more is not the 0 that `err_idx` holds for no position. -/
theorem ne_zero_of_one_le_toNat {idx : BitVec 3} (h : 1 ≤ idx.toNat) : idx ≠ 0 := by
  rintro rfl
  exact absurd h (by decide)

/-- PDO_LIST_DEC names one of the positions 1 to `cnt`, and no accepted `cnt` is above 7. -/
theorem pdoListDec_error (h : pdoListDec c pay cnt = .error e) :
    e = .countOutOfRange ∨ ∃ idx, idx ≠ 0 ∧ e = .unrecognizedVariant idx := by
  by_cases hcnt : 7 < cnt.toNat
  · cases (pdoListDec_of_cnt_gt hcnt).symm.trans h
    exact .inl rfl
  rw [pdoListDec_of_cnt_le (Nat.not_lt.mp hcnt)] at h
  cases hwords : decodeWords c 1 (laneWords c.wordOrder pay cnt.toNat) with
  | ok es => simp [hwords, Except.map] at h
  | error x =>
    simp only [hwords, Except.map, Except.error.injEq] at h
    obtain ⟨j, hj, rfl⟩ := decodeWords_error hwords
    rw [length_laneWords] at hj
    have hidx : (BitVec.ofNat 3 (1 + j)).toNat = 1 + j := toNat_ofNat_of_fits (by omega)
    exact .inr ⟨_, ne_zero_of_one_le_toNat (by omega), h.symm⟩

/-- Against a selected entry only the steps and the limits are left to check (R172). -/
theorem requestAgainst_error {x : PdoRec} (h : requestAgainst c pos reqI reqV x = .error e) :
    e = .notExactStep ∨ e = .valueOutOfRange := by
  cases x with
  | fixed x =>
    obtain ⟨-, hr⟩ | ⟨-, -, hr⟩ | ⟨-, -, hr⟩ := requestFixed_cases c x pos reqI
    · cases hr.symm.trans h
      exact .inl rfl
    · cases hr.symm.trans h
      exact .inr rfl
    · cases hr.symm.trans h
  | pps x =>
    obtain ⟨-, hr⟩ | ⟨-, -, -, hr⟩ | ⟨-, -, -, -, -, hr⟩ := requestPps_cases c x pos reqI reqV
    · cases hr.symm.trans h
      exact .inl rfl
    · cases hr.symm.trans h
      exact .inr rfl
    · cases hr.symm.trans h

/-- RDO_ENC names the position it selected, which lies in the list. -/
theorem rdoEnc_error (h : rdoEnc c pay cnt pos reqI reqV = .error e) :
    e = .countOutOfRange ∨ e = .positionOutOfBounds ∨ (∃ idx, idx ≠ 0 ∧ e = .unrecognizedVariant idx) ∨
      e = .notExactStep ∨ e = .valueOutOfRange := by
  by_cases hcnt : 7 < cnt.toNat
  · cases (rdoEnc_of_cnt_gt hcnt).symm.trans h
    exact .inl rfl
  have hcnt : cnt.toNat ≤ 7 := Nat.not_lt.mp hcnt
  by_cases hpos : pos.toNat = 0 ∨ cnt.toNat < pos.toNat
  · cases (rdoEnc_of_pos_outside hcnt hpos).symm.trans h
    exact .inr (.inl rfl)
  have hlo : 1 ≤ pos.toNat := by omega
  have hin : PosInList cnt pos := ⟨hcnt, hlo, by omega⟩
  cases hdec : pdoDecode c (laneWord c.wordOrder pay (pos.toNat - 1)) with
  | none =>
    cases (rdoEnc_of_none hin hdec).symm.trans h
    exact .inr (.inr (.inl ⟨_, ne_zero_of_one_le_toNat (hin.pos_field ▸ hlo), rfl⟩))
  | some x => exact .inr (.inr (.inr (requestAgainst_error ((rdoEnc_of_some hin hdec).symm.trans h))))

theorem addrLookup_error {v : Word16} (h : addrLookup v = .error e) : e = .unknownAddress := by
  unfold addrLookup at h
  split at h
  · cases h; rfl
  · split at h <;> cases h
    rfl

/-- An error that a command answers is one that R210's table lists for it. -/
theorem execAnswer_error_mayRaise {i : Instr} {p : InPorts} (h : execAnswer i c p = .error e) : mayRaise i e := by
  cases i with
  | unitDecStatV | unitDecStatI | unitDecStatT | unitDecPdoFixI | unitDecPdoFixV | unitDecPdoPpsI | unitDecPdoPpsVmin
  | unitDecPdoPpsVmax | unitDecRdoFixImax | unitDecRdoFixIop | unitDecRdoPpsIop | unitDecRdoPpsV =>
    obtain rfl := eq_valueOutOfRange_of_guard h
    exact .inl (by decide)
  | unitEncStatV | unitEncStatI | unitEncStatT | unitEncPdoFixI | unitEncPdoFixV | unitEncPdoPpsI | unitEncPdoPpsVmin
  | unitEncPdoPpsVmax | unitEncRdoFixImax | unitEncRdoFixIop | unitEncRdoPpsIop | unitEncRdoPpsV =>
    obtain rfl | rfl := unitEnc_error h
    · exact .inr (by decide)
    · exact .inl (by decide)
  | statusDec | eventDec | eventEnc | rdoDecFixed | rdoDecPps => cases h
  | pdoDec =>
    obtain rfl := pdoDec_error h
    exact .inl ⟨rfl, rfl⟩
  | pdoListDec =>
    obtain rfl | ⟨idx, hidx, rfl⟩ := pdoListDec_error h
    · exact .inr rfl
    · exact .inr (.inl ⟨rfl, hidx⟩)
  | rdoEnc =>
    obtain rfl | rfl | ⟨idx, hidx, rfl⟩ | rfl | rfl := rdoEnc_error h
    · exact .inl rfl
    · exact rfl
    · exact .inr (.inr ⟨rfl, hidx⟩)
    · exact .inl rfl
    · exact .inr (.inl rfl)
  | pdoPackFixed | pdoPackPps | rdoPackFixed | rdoPackPps =>
    obtain rfl := eq_valueOutOfRange_of_guard h
    simp [mayRaise]
  | addrLookup => exact addrLookup_error h ▸ rfl

/-- Settles O16: the answer recorded is `execAnswer`'s, whose errors are inverted operation by operation. -/
theorem errorsEachOperationMayRaise : Obligations.ErrorsEachOperationMayRaise :=
  fun _ _ _ hexec => execAnswer_error_mayRaise (exec_eq_answered_iff.mp hexec)

/-- Settles O14: the answer that both steps record is `stepAnswer` of the common build and first transaction. -/
theorem earlierTransactionsLeaveNothing : Obligations.EarlierTransactionsLeaveNothing := by
  intro s s' hcfg hpending hsome
  obtain ⟨p, ps, hp⟩ := List.exists_cons_of_ne_nil hsome
  have hstep' := step_of_pending_cons (hpending.symm.trans hp)
  rw [← hcfg] at hstep'
  exact ⟨_, _, stepAnswer s.cfg p, step_of_pending_cons hp, hstep', rfl, rfl, rfl⟩

/-- Settles O17: the ports are what the recorded error drives, one row of R210's codes an error. -/
theorem errorDrivesItsCodeAlone : Obligations.ErrorDrivesItsCodeAlone := by
  intro s e
  refine (outPorts_record s (.error e)).trans ?_
  cases e <;> rfl

end Sys2Proof.Machine
end

section
/-! The machine before its first transaction, and where the host presents none (R240, R241). -/

open Sys2Proof.Claims

namespace Sys2Proof.Machine

/-- Settles O6: the idle branch of a step. -/
theorem stepWithNothingPendingChangesNothing : Obligations.StepWithNothingPendingChangesNothing :=
  fun _ hnone => step_of_pending_nil hnone

/-- A state that has answered nothing is sound, whatever its build. -/
theorem sound_of_observed_nil {s : State} (h : s.observed = []) : Sound s := by
  simp [Sound, h]

/-- Settles O12: nothing is observed at reset, by O13. -/
theorem resetIsSound : Obligations.ResetIsSound := by
  obtain ⟨-, hobserved, -, -⟩ := resetLeavesNothingObserved
  exact sound_of_observed_nil hobserved

end Sys2Proof.Machine
end
